-- ==== Sys2Proof/Word.lean ====
section
/-! DEFINITION. The constants of 00_scope.md R6 that size the datapath, each under its own name, and the types they size;
the register width of R8. The lengths in bytes of R6 stand in Machine/Constants.lean. A 64-bit quantity is a pair of
registers, high half first (20_memory.md R65, R66). Log 17. -/

namespace Sys2Proof

/-- `NIB` = 4 bits: the width of an S-box input and output (R6). -/
abbrev nibBits : Nat := 4

/-- `SB_ENTRIES` = 16 entries in a table (R6). -/
abbrev sbEntries : Nat := 16

/-- `SB_TABLES` = 4 tables (R6). -/
abbrev sbTables : Nat := 4

/-- `HALF` = 32 bits: the width of a Feistel half (R6). -/
abbrev halfBits : Nat := 32

/-- `ROUNDS` = 16 rounds of the block transform (R6). -/
abbrev rounds : Nat := 16

/-- `RK4_BYTES` = 4 bytes of round key into the round function (R6). -/
abbrev rk4Bytes : Nat := 4

/-- A 32-bit register or command word (R8). -/
abbrev Word := BitVec 32

/-- One byte of a block or of a key. -/
abbrev Byte := BitVec 8

/-- An S-box input or output. -/
abbrev Nibble := BitVec nibBits

/-- A Feistel half. -/
abbrev Half := BitVec halfBits

/-- The round-key bytes a round function takes, first byte first (R130). -/
abbrev Key4 := Vector Byte rk4Bytes

/-- An 8-byte block (`BLK` of R6) as the register pair that holds it: `hi` holds bytes 0..3, `lo` bytes 4..7, each
big-endian (R10, R26, R27, R29, R33). -/
structure Block where
  hi : Word
  lo : Word
deriving DecidableEq, Repr

/-- The two halves (L, R) that the Feistel rounds work on (43_block_transform.md R140, R141). -/
structure Halves where
  left : Half
  right : Half
deriving DecidableEq, Repr

/-- One substitution table as its two registers: `lo` holds entries 0..7, `hi` entries 8..15, entry j of a register in
bits 4j+3:4j (10_state.md R36). -/
structure SboxTable where
  lo : Word
  hi : Word
deriving DecidableEq, Repr

end Sys2Proof
end

