-- ==== Sys2Proof/Config.lean ====
section
/-! DEFINITION. What the spec leaves to an implementation (00_scope.md R7, 93_implementation_defined.md): the named
parameters, as one argument, this hardware's values of the two that are numbers, and the free values, which are opaque
constants that no proof can see through. This hardware's values together are `hwParams` of Machine/Constants.lean. `LAT`
has no place in a model without a clock (R242, log 2). -/

namespace Sys2Proof

/-- `RK_SLOTS` of this hardware: 4 round-key slots (R7, D9). -/
abbrev rkSlots : Nat := 4

/-- `MK_CAP` of this hardware: a master-key buffer of 32 bytes (R7, D8). -/
abbrev mkCap : Nat := 32

/-- `RF_HIGH`: what the round function puts in output bits 31:16 (42_round_function.md R130, I2). -/
inductive RfHigh where
  /-- HIGH(x) = 0: this hardware (92_eei_decisions.md D6) -/
  | zero
  /-- HIGH(x) = x[31:16] -/
  | pass
  /-- nibbles 4..7 of x through tables 0..3 -/
  | subst8
deriving DecidableEq, Repr

/-- The parameters of R7, the argument of every operation that one of them bears on, up to the machine's step and reset
(Machine/Parametric.lean), so that a claim can quantify over them. -/
structure Params where
  /-- `SBOX_INIT[t][v]`: the reset contents of S-box table t, entry v (R37, I1) -/
  sboxInit : Fin sbTables → Fin sbEntries → Nibble
  /-- `RF_HIGH` (R130, I2) -/
  rfHigh : RfHigh
  /-- `RK4_SEL(k8, r)`: the 4 bytes of a slot that feed round r (R135, I3) -/
  rk4Sel : Block → Fin rounds → Key4
  /-- `MK_CAP`: the capacity of the master-key buffer in bytes (R30, R31, D8) -/
  mkCap : Nat
  /-- `RK_SLOTS`: the number of round-key slots (R33, D9) -/
  rkSlots : Nat

/-- The registers MK0, MK1, .. that hold a buffer of `MK_CAP` bytes, 4 bytes in each (10_state.md R31): 8 for this
hardware's 32 (log 21). -/
def Params.keyRegs (p : Params) : Nat := (p.mkCap + 3) / 4

namespace Config

/-- This hardware's `SBOX_INIT`: no source publishes a value (R7, R37, I1, N1), so it has none here. Log 3. -/
opaque sboxInit : Fin sbTables → Fin sbEntries → Nibble

/-- FREE VALUE: `bus_err` for an access made while `rst_n = 0`. R230 says that such an access is ignored and that a
read returns 0, and says nothing of the error response. Drawn afresh each time (`State.freeDraws`). Log 4. -/
opaque freeBusErr : Nat → Bool

end Config

end Sys2Proof
end

