-- ==== Sys2Proof/Syntax.lean ====
section
/-! DEFINITION. The commands of the SBX core, one constructor for each row of spec/opcode_table.json
(30_encoding.md R86). Operands are those of R83 and R90: a slot, a table and a round index are indexes, a nibble is 4
bits, and a length, a count and a size are numbers (LEN = LENM1 + 1, RC = RCM1 + 1, BS = BSM1 + 1). -/

namespace Sys2Proof

/-- The values of the SLOT field: it has 2 bits, whatever `RK_SLOTS` is (R81). -/
abbrev slotCodes : Nat := 4

inductive Instr where
  /-- NOP: complete, nothing else (46_control.md R190). -/
  | nop
  /-- SBOX t, v: look up entry v of table t (40_sbox.md R101). -/
  | sbox (t : Fin sbTables) (v : Nibble)
  /-- ROUNDF s, r: the round function on DIN_LO under slot s, for round r (42_round_function.md R131). -/
  | roundf (s : Fin slotCodes) (r : Fin rounds)
  /-- FENC s: encrypt DIN under slot s (43_block_transform.md R142). -/
  | fenc (s : Fin slotCodes)
  /-- FDEC s: decrypt DIN under slot s (43_block_transform.md R143). -/
  | fdec (s : Fin slotCodes)
  /-- EDE len: EDE3 on the first len bytes of DIN (44_ede_mode.md R161). -/
  | ede (len : Nat)
  /-- CTR s, len: XOR a keystream block into the first len bytes of DIN, then increment CTR (45_counter_mode.md R171). -/
  | ctr (s : Fin slotCodes) (len : Nat)
  /-- CTRINC: increment CTR (45_counter_mode.md R172). -/
  | ctrinc
  /-- KEYGEN rc, bs: a schedule of rc round keys of bs bytes (41_key_schedule.md R111). -/
  | keygen (rc bs : Nat)
  /-- KEYGEN.EDE: the triple-EDE schedule (41_key_schedule.md R113). -/
  | keygenEde
  /-- KEYGEN.CTR: the counter-scheme schedule (41_key_schedule.md R114). -/
  | keygenCtr
  /-- ZEROIZE: clear key material and data buffers (46_control.md R191). -/
  | zeroize
deriving DecidableEq, Repr

end Sys2Proof
end

