-- ==== Sys2Proof/WellFormed.lean ====
section
/-! DEFINITION. Which commands can be written (30_encoding.md R83, R90): a chunk length is 1..8, a round-key count is
1..4, a block size is 1..8; "an operand outside its range is an assembly error" (R90). The other operands are in range
by their types. -/

namespace Sys2Proof

/-- `1 ≤ n ≤ hi`: the range of an operand that is encoded minus one (R83). -/
def inRange (hi n : Nat) : Bool := decide (1 ≤ n) && decide (n ≤ hi)

/-- The operand ranges of R90. -/
def Instr.wellFormed : Instr → Bool
  | .nop => true
  | .sbox _ _ => true
  | .roundf _ _ => true
  | .fenc _ => true
  | .fdec _ => true
  | .ede len => inRange 8 len
  | .ctr _ len => inRange 8 len
  | .ctrinc => true
  | .keygen rc bs => inRange 4 rc && inRange 8 bs
  | .keygenEde => true
  | .keygenCtr => true
  | .zeroize => true

end Sys2Proof
end

