-- ==== Sys2Proof/Decode.lean ====
section
/-! DEFINITION. The command word (30_encoding.md): its fields (R81, R83), the opcode map as rows of mask and match
(R86), the total decoder (R87), and the encoder of R90. A word that no row matches is Illegal (R87, R88): `none`. -/

namespace Sys2Proof

/-- SLOT, bits 5:4 (R81). -/
def slotField (w : Word) : Fin slotCodes := (w.extractLsb' 4 2).toFin

/-- TBL, bits 7:6 (R81). -/
def tblField (w : Word) : Fin sbTables := (w.extractLsb' 6 2).toFin

/-- NIB, bits 11:8, as SBOX's nibble value (R81). -/
def nibField (w : Word) : Nibble := w.extractLsb' 8 4

/-- NIB, bits 11:8, as ROUNDF's round index (R81). -/
def roundField (w : Word) : Fin rounds := (w.extractLsb' 8 4).toFin

/-- LEN = LENM1 + 1, LENM1 in bits 14:12 (R83). -/
def lenField (w : Word) : Nat := (w.extractLsb' 12 3).toNat + 1

/-- RC = RCM1 + 1, RCM1 in bits 19:18 (R83). -/
def rcField (w : Word) : Nat := (w.extractLsb' 18 2).toNat + 1

/-- BS = BSM1 + 1, BSM1 in bits 22:20 (R83). -/
def bsField (w : Word) : Nat := (w.extractLsb' 20 3).toNat + 1

/-- One row of the opcode map of R86: a word w is this form when `w & mask = pattern`. -/
structure OpcodeRow where
  pattern : Word
  mask : Word
  build : Word → Instr

/-- The opcode map (R86), in the table's order. -/
def opcodeRows : List OpcodeRow :=
  [ ⟨0x00000000#32, 0xFFFFFFFF#32, fun _ => .nop⟩,
    ⟨0x00000001#32, 0xFFFFF03F#32, fun w => .sbox (tblField w) (nibField w)⟩,
    ⟨0x00000002#32, 0xFFFFF0CF#32, fun w => .roundf (slotField w) (roundField w)⟩,
    ⟨0x00000003#32, 0xFFFFFFCF#32, fun w => .fenc (slotField w)⟩,
    ⟨0x00000004#32, 0xFFFFFFCF#32, fun w => .fdec (slotField w)⟩,
    ⟨0x00000005#32, 0xFFFF8FFF#32, fun w => .ede (lenField w)⟩,
    ⟨0x00000006#32, 0xFFFF8FCF#32, fun w => .ctr (slotField w) (lenField w)⟩,
    ⟨0x00000007#32, 0xFFFFFFFF#32, fun _ => .ctrinc⟩,
    ⟨0x00000008#32, 0xFF83FFFF#32, fun w => .keygen (rcField w) (bsField w)⟩,
    ⟨0x00010008#32, 0xFFFFFFFF#32, fun _ => .keygenEde⟩,
    ⟨0x00020008#32, 0xFFFFFFFF#32, fun _ => .keygenCtr⟩,
    ⟨0x00000009#32, 0xFFFFFFFF#32, fun _ => .zeroize⟩ ]

/-- R87's test of one row. -/
def OpcodeRow.matchesWord (r : OpcodeRow) (w : Word) : Bool := w &&& r.mask == r.pattern

/-- R87: the first row that matches gives the command; no row, Illegal (`none`). -/
def decode (w : Word) : Option Instr :=
  (opcodeRows.find? (fun r => r.matchesWord w)).map (fun r => r.build w)

/-- The host's question: an instruction is one 32-bit word (R80), so the word is its `nbits` low bits. -/
def decodeTableWord (nbits w : Nat) : Option Instr := decode (BitVec.ofNat 32 (w % 2 ^ nbits))

/-- The word of a well-formed command, by the formulas of R90. -/
def encode : Instr → Word
  | .nop => 0x0#32
  | .sbox t v => 0x1#32 ||| BitVec.ofNat 32 t.val <<< 6 ||| v.setWidth 32 <<< 8
  | .roundf s r => 0x2#32 ||| BitVec.ofNat 32 s.val <<< 4 ||| BitVec.ofNat 32 r.val <<< 8
  | .fenc s => 0x3#32 ||| BitVec.ofNat 32 s.val <<< 4
  | .fdec s => 0x4#32 ||| BitVec.ofNat 32 s.val <<< 4
  | .ede len => 0x5#32 ||| BitVec.ofNat 32 (len - 1) <<< 12
  | .ctr s len => 0x6#32 ||| BitVec.ofNat 32 s.val <<< 4 ||| BitVec.ofNat 32 (len - 1) <<< 12
  | .ctrinc => 0x7#32
  | .keygen rc bs => 0x8#32 ||| BitVec.ofNat 32 (rc - 1) <<< 18 ||| BitVec.ofNat 32 (bs - 1) <<< 20
  | .keygenEde => 0x00010008#32
  | .keygenCtr => 0x00020008#32
  | .zeroize => 0x9#32

/-- R90: the assembler emits the word of a command whose operands are in range, and no word for another. -/
def assemble (i : Instr) : Option Word := if i.wellFormed then some (encode i) else none

end Sys2Proof
end

