-- ==== Sys2Proof/Machine/Bytes.lean ====
section
/-! DEFINITION. Bytes, words and blocks (00_scope.md R9, R10; 20_memory.md R65): big-endian packing of bytes into
registers, nibble fields, and the packing of a substitution table into its two registers (10_state.md R36). -/

namespace Sys2Proof.Machine

/-- `be32` (R10): b0<<24 | b1<<16 | b2<<8 | b3. -/
def be32 (b0 b1 b2 b3 : Byte) : Word :=
  b0.setWidth 32 <<< 24 ||| b1.setWidth 32 <<< 16 ||| b2.setWidth 32 <<< 8 ||| b3.setWidth 32

/-- Byte j (0..3) of `bytes_be32(w)` (R10). -/
def wordByte (w : Word) (j : Nat) : Byte := w.extractLsb' (24 - 8 * j) 8

/-- Byte j (0..7) of a block: bytes 0..3 are `hi`, 4..7 are `lo` (R26). -/
def blockByte (b : Block) (j : Nat) : Byte := if j < 4 then wordByte b.hi j else wordByte b.lo (j - 4)

/-- The block whose byte j is `f j` (R26). -/
def blockOf (f : Nat → Byte) : Block := ⟨be32 (f 0) (f 1) (f 2) (f 3), be32 (f 4) (f 5) (f 6) (f 7)⟩

/-- `be64` (R10): be32(b[0..3])<<32 | be32(b[4..7]). -/
def be64 (b : Block) : BitVec 64 := b.hi.setWidth 64 <<< 32 ||| b.lo.setWidth 64

/-- The block of eight zero bytes. -/
def zeroBlock : Block := ⟨0#32, 0#32⟩

/-- Bytes 0..n-1 of a block, and 0x00 from byte n on (R160, R162). -/
def keepFirst (n : Nat) (b : Block) : Block := blockOf fun j => if j < n then blockByte b j else 0x00#8

/-- Bytewise XOR of two blocks. -/
def xorBlock (a b : Block) : Block := ⟨a.hi ^^^ b.hi, a.lo ^^^ b.lo⟩

/-- Nibble i of a word, bits 4i+3:4i (R9). -/
def nibbleOf (w : Word) (i : Nat) : Nibble := w.extractLsb' (4 * i) 4

/-- The word whose nibble i is `f i` (R36). -/
def packNibbles (f : Nat → Nibble) : Word :=
  (f 7).setWidth 32 <<< 28 ||| (f 6).setWidth 32 <<< 24 ||| (f 5).setWidth 32 <<< 20 ||| (f 4).setWidth 32 <<< 16 |||
    (f 3).setWidth 32 <<< 12 ||| (f 2).setWidth 32 <<< 8 ||| (f 1).setWidth 32 <<< 4 ||| (f 0).setWidth 32

/-- The two registers of the table whose entry v is `f v` (R36). -/
def packTable (f : Fin sbEntries → Nibble) : SboxTable :=
  ⟨packNibbles fun j => f (Fin.ofNat sbEntries j), packNibbles fun j => f (Fin.ofNat sbEntries (j + 8))⟩

end Sys2Proof.Machine
end

