-- ==== Sys2Proof/Machine/Constants.lean ====
section
/-! DEFINITION. The named constants of 00_scope.md R6 that are lengths in bytes or values (those that size a type stand in
Word.lean), and this hardware's values of the parameters of R7 (log 16, log 17). -/

namespace Sys2Proof.Machine

/-- `BLK`: bytes in a block (R6). -/
def blkBytes : Nat := 8

/-- The round indexes of the block transform, 0 .. ROUNDS-1, ascending (R140). -/
def roundIndexes : List (Fin rounds) := List.finRange rounds

/-- `EDE_KEY_MIN`: the least key length of the triple scheme, in bytes (R6, R113). -/
def edeKeyMin : Nat := 24

/-- `CTR_KEY_MIN`: the least key length of the counter scheme, in bytes (R6, R114). -/
def ctrKeyMin : Nat := 16

/-- `EDE_SLOTS`: round keys of the triple scheme (R6, R113). -/
def edeSlots : Nat := 3

/-- Round keys of the counter scheme (R114, D10). -/
def ctrSlots : Nat := 2

/-- `CTR_INIT`: the counter's reset value, bytes 00 01 02 03 04 05 06 07 (R6, R29). -/
def ctrInit : Block := ⟨0x00010203#32, 0x04050607#32⟩

/-- ID, hard-wired: the ASCII bytes "SBX1" (R21). -/
def idValue : Word := 0x53425831#32

/-- `FIRST4`: bytes 0..3 of the slot in every round (R135, D7). -/
def first4 (k8 : Block) (_r : Fin rounds) : Key4 := Vector.ofFn fun i => blockByte k8 i.val

/-- This hardware's parameters (R7): `SBOX_INIT` without a value (D5, log 3), `RF_HIGH = ZERO` (D6), `RK4_SEL = FIRST4` (D7),
`MK_CAP = 32` (D8), `RK_SLOTS = 4` (D9). Log 16. -/
def hwParams : Params :=
  { sboxInit := Config.sboxInit
    rfHigh := .zero
    rk4Sel := first4
    mkCap := mkCap
    rkSlots := rkSlots }

end Sys2Proof.Machine
end

