-- ==== Sys2Proof/Machine/State.lean ====
section
/-! DEFINITION. Everything the spec gives the machine (10_state.md R20 to R41) as plain data, the data of the host's
moves (20_memory.md R61, R73), the reasons a step can stop, and the state right after reset (70_reset_and_hazards.md
R230). -/

namespace Sys2Proof.Machine

/-- STATUS.ERRCODE (60_exceptions.md R200): codes 0..5, "no other value is ever produced". -/
inductive ErrCode where
  /-- 0: no error since ERR was last cleared -/
  | noError
  /-- 1 ILLEGAL: the issued word decodes as Illegal -/
  | illegal
  /-- 2 KEY_LEN: MK_LEN below the scheme's minimum -/
  | keyLen
  /-- 3 RK_COUNT: MK_LEN < RC*BS -/
  | rkCount
  /-- 4 NO_KEY: a slot the command reads holds no key -/
  | noKey
  /-- 5 BUSY_WRITE: a host write while BUSY = 1, other than to STATUS -/
  | busyWrite
deriving DecidableEq, Repr

/-- STATUS (R23), by its fields: bit 0, bit 1, bit 2, bits 7:4. Bits 3 and 31:8 are hard-wired 0 (log 9). -/
structure Status where
  busy : Bool
  done : Bool
  err : Bool
  errcode : ErrCode
deriving DecidableEq, Repr

/-- RKINFO (R34), by its fields: VALID bits 3:0, BS bits 11:8, RC bits 18:16. The others are hard-wired 0 (log 9). -/
structure RkInfo where
  valid : BitVec 4
  bs : BitVec 4
  rc : BitVec 3
deriving DecidableEq, Repr

/-- One host bus access (R61): direction, byte offset, write data, byte strobes. -/
structure BusAccess where
  write : Bool
  addr : BitVec 8
  wdata : Word
  wstrb : BitVec 4
deriving DecidableEq, Repr

/-- The response to an access (R61): `bus_rdata`, for a read only (the spec gives a write no read data, log 6), and
`bus_err`. -/
structure BusResponse where
  rdata : Option Word
  err : Bool
deriving DecidableEq, Repr

/-- Who moves next (R73, R204, R241): the data of one step of the environment's choosing (log 1). -/
inductive Turn where
  /-- the core takes its completion step, if one is enabled (R204, R206) -/
  | complete
  /-- the host makes a bus access (R62, R63) -/
  | access (a : BusAccess)
  /-- a rising clock edge with `rst_n = 0`, perhaps with a bus access, which is ignored (R230) -/
  | reset (a : Option BusAccess)
deriving DecidableEq, Repr

/-- The state of one SBX core (R41), with the model's own fields last. It is one type for every value of the parameters of
R7: the key buffer and the slots are lists, of `MK_CAP` bytes in whole registers and of `RK_SLOTS` slots (`ShapeOk` of
Safety.lean, log 21). -/
structure State where
  /-- CTRL.IE, bit 0 of CTRL; bits 31:1 are hard-wired 0 (R22) -/
  ie : Bool
  /-- STATUS (R23) -/
  status : Status
  /-- CMD: the last command word accepted (R25) -/
  cmd : Word
  /-- DIN_HI, DIN_LO: the input block (R26) -/
  din : Block
  /-- DOUT_HI, DOUT_LO: the output block (R27) -/
  dout : Block
  /-- RES: the SBOX and ROUNDF result (R28) -/
  res : Word
  /-- CTR_HI, CTR_LO: the counter block (R29) -/
  ctr : Block
  /-- MK_LEN.LEN, bits 5:0 of MK_LEN; bits 31:6 are hard-wired 0 (R30) -/
  mkLen : BitVec 6
  /-- MK0..MK7: the master key, byte 0 first (R31); `Params.keyRegs` registers -/
  mkey : List Word
  /-- RK0..RK3: the round-key slots (R33); `RK_SLOTS` slots -/
  rk : List Block
  /-- RKINFO (R34) -/
  rkinfo : RkInfo
  /-- SBOXt_LO, SBOXt_HI: the four substitution tables (R36) -/
  sbox : Vector SboxTable sbTables
  /-- the in-flight command latch (R38) -/
  pending : Option Word
  /-- MODEL'S OWN: who moves next, first the next; with none, the core completes or waits (log 1) -/
  turns : List Turn
  /-- MODEL'S OWN: what the bus answered to the host's latest access (R61; log 5, log 6) -/
  lastResp : Option BusResponse
  /-- MODEL'S OWN: how many free values have been drawn (log 4) -/
  freeDraws : Nat
deriving DecidableEq, Repr

/-- Why the machine would stop with a fault. Nobody raises one: "The core never stops or hangs" (60_exceptions.md R206),
errors are codes in STATUS (R200), and a bad access gets `bus_err` (20_memory.md R63). Log 10. -/
inductive Fault where
deriving DecidableEq, Repr

/-- Why a command would have no meaning. -/
inductive Refusal where
  /-- raised only by an arm of `exec` for a command that has no meaning yet (safe); no arm is such a one now -/
  | notModelled (mnemonic : String)
deriving DecidableEq, Repr

/-- The machine right after reset (R230, R20), for the parameters p: every register at the value of R20, the S-box
registers at the image of `SBOX_INIT` (R37), no command pending; the model's own fields empty (log 5). -/
def resetState (p : Params) : State :=
  { ie := false
    status := { busy := false, done := false, err := false, errcode := .noError }
    cmd := 0#32
    din := zeroBlock
    dout := zeroBlock
    res := 0#32
    ctr := ctrInit
    mkLen := 0#6
    mkey := List.replicate p.keyRegs 0#32
    rk := List.replicate p.rkSlots zeroBlock
    rkinfo := { valid := 0#4, bs := 0#4, rc := 0#3 }
    sbox := Vector.ofFn fun t => packTable (p.sboxInit t)
    pending := none
    turns := []
    lastResp := none
    freeDraws := 0 }

/-- This hardware right after reset. -/
def State.reset : State := resetState hwParams

end Sys2Proof.Machine
end

