-- ==== Sys2Proof/Machine/Flags.lean ====
section
/-! DEFINITION. STATUS, the core's only flags (10_state.md R23, R40), and the interrupt (60_exceptions.md R210): how the
fields lie in the registers, how each event changes them, and `irq`. -/

namespace Sys2Proof.Machine

/-- The code of an ERRCODE value (R200). -/
def errCodeBits : ErrCode → BitVec 4
  | .noError => 0#4
  | .illegal => 1#4
  | .keyLen => 2#4
  | .rkCount => 3#4
  | .noKey => 4#4
  | .busyWrite => 5#4

/-- STATUS as the host reads it (R23). -/
def statusWord (st : Status) : Word :=
  (BitVec.ofBool st.busy).setWidth 32 ||| (BitVec.ofBool st.done).setWidth 32 <<< 1 |||
    (BitVec.ofBool st.err).setWidth 32 <<< 2 ||| (errCodeBits st.errcode).setWidth 32 <<< 4

/-- CTRL as the host reads it (R22). -/
def ctrlWord (ie : Bool) : Word := (BitVec.ofBool ie).setWidth 32

/-- RKINFO as the host reads it (R34). -/
def rkInfoWord (k : RkInfo) : Word := k.valid.setWidth 32 ||| k.bs.setWidth 32 <<< 8 ||| k.rc.setWidth 32 <<< 16

/-- A host write of v to STATUS (R23): bit 1 clears DONE, bit 2 clears ERR and ERRCODE together, all else is ignored.
This is also the return from an error (R208). -/
def statusW1C (v : Word) (st : Status) : Status :=
  { busy := st.busy
    done := if v.getLsbD 1 then false else st.done
    err := if v.getLsbD 2 then false else st.err
    errcode := if v.getLsbD 2 then .noError else st.errcode }

/-- STATUS at issue (R204): BUSY set, DONE cleared, the error kept. -/
def statusIssued (st : Status) : Status := { st with busy := true, done := false }

/-- STATUS at a completion without an error (R204): BUSY cleared, DONE set, the error kept. -/
def statusCompleted (st : Status) : Status := { st with busy := false, done := true }

/-- STATUS at a completion that raises `c` (R201). -/
def statusRaised (c : ErrCode) : Status := { busy := false, done := true, err := true, errcode := c }

/-- STATUS after a dropped write (R205). -/
def statusBusyWrite (st : Status) : Status := { st with err := true, errcode := .busyWrite }

/-- The interrupt output (R210): level, CTRL.IE and STATUS.DONE. -/
def irq (s : State) : Bool := s.ie && s.status.done

end Sys2Proof.Machine
end

