-- ==== Sys2Proof/Machine/Datapath.lean ====
section
/-! DEFINITION. The pure functions of 00_scope.md R12, over the four tables and the parameters of R7: SBOX (40_sbox.md
R100), F (42_round_function.md R130), ENC and DEC (43_block_transform.md R140, R141), EDE3 (44_ede_mode.md R160), INC64
(45_counter_mode.md R170) and KSLICE (41_key_schedule.md R110). -/

namespace Sys2Proof.Machine

/-- Entry v of a table (10_state.md R36): entries 0..7 in `lo`, 8..15 in `hi`. -/
def tableEntry (tb : SboxTable) (v : Nibble) : Nibble :=
  if v.toNat < 8 then nibbleOf tb.lo v.toNat else nibbleOf tb.hi (v.toNat - 8)

/-- SBOX(t, v) = SB[t][v] (R100): the stored entry, unchanged (R102). -/
def sboxLookup (sb : Vector SboxTable sbTables) (t : Fin sbTables) (v : Nibble) : Nibble := tableEntry sb[t] v

/-- One lane of the round function (R103): nibble i of x through table `i mod SB_TABLES`. -/
def laneOut (sb : Vector SboxTable sbTables) (x : Half) (i : Nat) : Nibble := sboxLookup sb (Fin.ofNat sbTables i) (nibbleOf x i)

/-- Lanes i..i+3 side by side, lane i in bits 3:0, lane i+3 in bits 15:12 (R103). -/
def fourLanes (sb : Vector SboxTable sbTables) (x : Half) (i : Nat) : BitVec 16 :=
  (laneOut sb x (i + 3)).setWidth 16 <<< 12 ||| (laneOut sb x (i + 2)).setWidth 16 <<< 8 |||
    (laneOut sb x (i + 1)).setWidth 16 <<< 4 ||| (laneOut sb x i).setWidth 16

/-- The round-key bytes as the word that is XORed in: key byte i at bits 8i+7:8i (R130, R132). -/
def keyWord (k : Key4) : Half :=
  k[0].setWidth halfBits ||| k[1].setWidth halfBits <<< 8 ||| k[2].setWidth halfBits <<< 16 |||
    k[3].setWidth halfBits <<< 24

/-- HIGH(x), output bits 31:16 of the round function (R130). -/
def highPart (rf : RfHigh) (sb : Vector SboxTable sbTables) (x : Half) : BitVec 16 :=
  match rf with
  | .zero => 0#16
  | .pass => x.extractLsb' 16 16
  | .subst8 => fourLanes sb x 4

/-- F(h, k4) (R130). -/
def roundFn (rf : RfHigh) (sb : Vector SboxTable sbTables) (h : Half) (k : Key4) : Half :=
  let x := h ^^^ keyWord k
  (highPart rf sb x).setWidth halfBits <<< 16 ||| (fourLanes sb x 0).setWidth halfBits

/-- The initial split of a block (R140): L = be32(b[0..3]), R = be32(b[4..7]). -/
def splitBlock (b : Block) : Halves := ⟨b.hi, b.lo⟩

/-- `bytes_be32(h) || bytes_be32(h')` (R10): two halves as a block. -/
def joinHalves (h h' : Half) : Block := ⟨h, h'⟩

/-- One encrypt round: (L, R) becomes (R, L ^ F(R, RK4_SEL(k8, r))) (R140). -/
def encRound (p : Params) (sb : Vector SboxTable sbTables) (k8 : Block) (h : Halves) (r : Fin rounds) : Halves :=
  ⟨h.right, h.left ^^^ roundFn p.rfHigh sb h.right (p.rk4Sel k8 r)⟩

/-- One decrypt round: (L, R) becomes (R ^ F(L, RK4_SEL(k8, r)), L) (R141). -/
def decRound (p : Params) (sb : Vector SboxTable sbTables) (k8 : Block) (h : Halves) (r : Fin rounds) : Halves :=
  ⟨h.right ^^^ roundFn p.rfHigh sb h.left (p.rk4Sel k8 r), h.left⟩

/-- ENC(k8, b) (R140): rounds 0..15, then the halves in reversed order, `R || L`. -/
def encBlock (p : Params) (sb : Vector SboxTable sbTables) (k8 b : Block) : Block :=
  let e := roundIndexes.foldl (encRound p sb k8) (splitBlock b)
  joinHalves e.right e.left

/-- DEC(k8, b) (R141): rounds 15..0, then `L || R`. -/
def decBlock (p : Params) (sb : Vector SboxTable sbTables) (k8 b : Block) : Block :=
  let d := roundIndexes.reverse.foldl (decRound p sb k8) (splitBlock b)
  joinHalves d.left d.right

/-- EDE3 on the first n bytes of a block (R160): zero-padded, through three passes, and only n bytes kept, the others
0x00 (R161, R162). -/
def ede3 (p : Params) (sb : Vector SboxTable sbTables) (k0 k1 k2 : Block) (n : Nat) (c : Block) : Block :=
  keepFirst n (encBlock p sb k2 (decBlock p sb k1 (encBlock p sb k0 (keepFirst n c))))

/-- The carry of INC64 over bytes, least significant first (R170). -/
def incBytes : List Byte → List Byte
  | [] => []
  | c :: rest => if c + 1#8 = 0#8 then 0#8 :: incBytes rest else (c + 1#8) :: rest

/-- INC64(c) (R170): byte 7 first, carrying toward byte 0, wrapping to zero. -/
def inc64 (c : Block) : Block :=
  let bytes := (incBytes ((List.range blkBytes).reverse.map (blockByte c))).reverse
  blockOf fun j => bytes.getD j 0x00#8

/-- MK[j], byte j of the master-key buffer (10_state.md R31). -/
def mkByte (mk : List Word) (j : Nat) : Byte := wordByte (mk.getD (j / 4) 0#32) (j % 4)

/-- slot(i) of KSLICE (R110): bytes i*bs .. i*bs+bs-1 of the key, then 0x00. -/
def keySlice (mk : List Word) (bs i : Nat) : Block :=
  blockOf fun j => if j < bs then mkByte mk (i * bs + j) else 0x00#8

/-- KSLICE(mk, len, rc, bs) (R110): `none` on a shortfall. -/
def kslice (mk : List Word) (len rc bs : Nat) : Option (List Block) :=
  if len < rc * bs then none else some ((List.range rc).map (keySlice mk bs))

/-- The slots that a schedule's slices leave (R111): slice k in slot k, and 0x00 x 8 past the last slice, for a core of
`slots` slots (`RK_SLOTS`). -/
def scheduleSlots (slots : Nat) (sl : List Block) : List Block := (List.range slots).map fun k => sl.getD k zeroBlock

end Sys2Proof.Machine
end

