-- ==== Sys2Proof/Machine/Operands.lean ====
section
/-! DEFINITION. Where a command's data operands come from (30_encoding.md R84) and which register an offset names
(10_state.md R20). -/

namespace Sys2Proof.Machine

/-- The registers MK0..MK7 of the register map (R20). -/
abbrev mkRegs : Nat := 8

/-- The slots RK0..RK3 of the register map (R20). -/
abbrev rkRegs : Nat := 4

/-- The registers of the window (R20), whatever the parameters of R7 are. -/
inductive Reg where
  | id
  | ctrl
  | status
  | cmd
  | dinHi
  | dinLo
  | doutHi
  | doutLo
  | res
  | ctrHi
  | ctrLo
  | mkLen
  | mk (w : Fin mkRegs)
  | rkHi (s : Fin rkRegs)
  | rkLo (s : Fin rkRegs)
  | rkinfo
  | sboxLo (t : Fin sbTables)
  | sboxHi (t : Fin sbTables)
  /-- a reserved offset (R35) -/
  | reserved
deriving DecidableEq, Repr

/-- The register at an aligned byte offset (R20): MKw at 0x30 + 4w, RKs_HI at 0x50 + 8s and RKs_LO at 0x54 + 8s,
SBOXt_LO at 0x80 + 8t and SBOXt_HI at 0x84 + 8t (R31, R33, R36). -/
def regAt (off : BitVec 8) : Reg :=
  let n := off.toNat
  if n < 0x30 then
    match n / 4 with
    | 0 => .id
    | 1 => .ctrl
    | 2 => .status
    | 3 => .cmd
    | 4 => .dinHi
    | 5 => .dinLo
    | 6 => .doutHi
    | 7 => .doutLo
    | 8 => .res
    | 9 => .ctrHi
    | 10 => .ctrLo
    | _ => .mkLen
  else if n < 0x50 then .mk (Fin.ofNat mkRegs ((n - 0x30) / 4))
  else if n < 0x70 then
    if (n - 0x50) % 8 < 4 then .rkHi (Fin.ofNat rkRegs ((n - 0x50) / 8)) else .rkLo (Fin.ofNat rkRegs ((n - 0x50) / 8))
  else if n < 0x74 then .rkinfo
  else if n < 0x80 then .reserved
  else if n < 0xA0 then
    if (n - 0x80) % 8 < 4 then .sboxLo (Fin.ofNat sbTables ((n - 0x80) / 8)) else .sboxHi (Fin.ofNat sbTables ((n - 0x80) / 8))
  else .reserved

/-- The byte offset of a register (R20). A reserved offset has no one place: 0x74, the first of them, stands for it. -/
def offsetOf : Reg → BitVec 8
  | .id => 0x00#8
  | .ctrl => 0x04#8
  | .status => 0x08#8
  | .cmd => 0x0C#8
  | .dinHi => 0x10#8
  | .dinLo => 0x14#8
  | .doutHi => 0x18#8
  | .doutLo => 0x1C#8
  | .res => 0x20#8
  | .ctrHi => 0x24#8
  | .ctrLo => 0x28#8
  | .mkLen => 0x2C#8
  | .mk w => BitVec.ofNat 8 (0x30 + 4 * w.val)
  | .rkHi s => BitVec.ofNat 8 (0x50 + 8 * s.val)
  | .rkLo s => BitVec.ofNat 8 (0x54 + 8 * s.val)
  | .rkinfo => 0x70#8
  | .sboxLo t => BitVec.ofNat 8 (0x80 + 8 * t.val)
  | .sboxHi t => BitVec.ofNat 8 (0x84 + 8 * t.val)
  | .reserved => 0x74#8

/-- RKINFO.VALID[s] = 1: slot s holds a round key (R34). -/
def slotValid (s : State) (k : Nat) : Bool := s.rkinfo.valid.getLsbD k

/-- RK[k] (R33); 0x00 x 8 for a slot that the core does not have (log 21). -/
def slotKey (s : State) (k : Nat) : Block := s.rk.getD k zeroBlock

/-- The register MKw (R31); 0 for one that the core does not have (log 21). -/
def keyReg (s : State) (w : Nat) : Word := s.mkey.getD w 0#32

/-- MK_LEN.LEN, the master key's length in bytes (R30). -/
def keyLength (s : State) : Nat := s.mkLen.toNat

end Sys2Proof.Machine
end

