-- ==== Sys2Proof/Machine/Ops.lean ====
section
/-! DEFINITION. The named operations that the commands and the host's accesses share: issue and completion
(60_exceptions.md R204), raising a command error (R201) and returning from one (R208), the slot check (NO_KEY, R200),
KFAIL and the loading of a schedule (41_key_schedule.md R111, R112), clearing (46_control.md R191), and reset
(70_reset_and_hazards.md R230). -/

namespace Sys2Proof.Machine

/-- Issue of command word w (R204, R25): CMD and the latch take w, BUSY is set, DONE is cleared. -/
def issue (w : Word) (s : State) : State :=
  { s with cmd := w, pending := some w, status := statusIssued s.status }

/-- The completion of a command that raised nothing (R204). -/
def completeOk (s : State) : State := { s with status := statusCompleted s.status, pending := none }

/-- `raise CmdError(c)`, the one way a command fails (R201): the completion reports c, and no other register changes. -/
def raiseCmdError (c : ErrCode) (s : State) : State := { s with status := statusRaised c, pending := none }

/-- A host write to STATUS (R23): W1C, and the return from an error (R208). -/
def writeStatus (v : Word) (s : State) : State := { s with status := statusW1C v s.status }

/-- A host write dropped because BUSY = 1 (R205). -/
def dropWrite (s : State) : State := { s with status := statusBusyWrite s.status }

/-- Complete with `f`'s results if every slot of `ks` is valid, else raise NO_KEY and write no result (R200, R201). -/
def withKeys (ks : List Nat) (f : State → State) (s : State) : State :=
  if ks.all (slotValid s) then completeOk (f s) else raiseCmdError .noKey s

/-- KFAIL() (R112): the whole schedule cleared. -/
def kfail (p : Params) (s : State) : State :=
  { s with
    rk := List.replicate p.rkSlots zeroBlock
    rkinfo := { valid := 0#4, bs := 0#4, rc := 0#3 } }

/-- A schedule's slices into the slots, slots past the last cleared, and RKINFO (R111):
VALID = (1 << RC) - 1, cut to the slots there are (log 21), BS, RC. -/
def loadSchedule (p : Params) (sl : List Block) (rc bs : Nat) (s : State) : State :=
  { s with
    rk := scheduleSlots p.rkSlots sl
    rkinfo :=
      { valid := BitVec.ofNat 4 (2 ^ min rc p.rkSlots - 1)
        bs := BitVec.ofNat 4 bs
        rc := BitVec.ofNat 3 rc } }

/-- A KEYGEN that fails on key length (R111, R112): KFAIL, then the error. -/
def keygenFail (p : Params) (c : ErrCode) (s : State) : State := raiseCmdError c (kfail p s)

/-- KEYGEN (R111, R113, R114): rc round keys of bs bytes, when the key has at least `need` bytes, else the error `c`.
For `need ≥ rc * bs`, as in every KEYGEN form, KSLICE has no shortfall (log 20). -/
def runKeygen (p : Params) (need : Nat) (c : ErrCode) (rc bs : Nat) (s : State) : State :=
  if keyLength s < need then keygenFail p c s
  else
    match kslice s.mkey (keyLength s) rc bs with
    | none => keygenFail p c s
    | some sl => completeOk (loadSchedule p sl rc bs s)

/-- What ZEROIZE clears (R191): MK, MK_LEN, RK, RKINFO, DIN, DOUT, RES. -/
def clearSecrets (p : Params) (s : State) : State :=
  { s with
    mkey := List.replicate p.keyRegs 0#32
    mkLen := 0#6
    rk := List.replicate p.rkSlots zeroBlock
    rkinfo := { valid := 0#4, bs := 0#4, rc := 0#3 }
    din := zeroBlock
    dout := zeroBlock
    res := 0#32 }

/-- A rising clock edge with `rst_n = 0` (R230): every register takes its reset value and the pending command is
abandoned. An access made then is ignored and a read returns 0; its `bus_err` is a free value (log 4). What is not the
core's own, the turns to come and the response the host holds, is kept (log 5). -/
def resetEdge (p : Params) (a : Option BusAccess) (s : State) : State :=
  match a with
  | none => { resetState p with turns := s.turns, lastResp := s.lastResp, freeDraws := s.freeDraws }
  | some acc =>
    { resetState p with
      turns := s.turns
      lastResp := some
        { rdata := if acc.write then none else some 0#32
          err := Config.freeBusErr s.freeDraws }
      freeDraws := s.freeDraws + 1 }

end Sys2Proof.Machine
end

