-- ==== Sys2Proof/Machine/Bus.lean ====
section
/-! DEFINITION. The host's accesses to the register window (20_memory.md R62, R63; 10_state.md R20 to R37;
60_exceptions.md R204, R205). -/

namespace Sys2Proof.Machine

/-- A read of a register (R62): its value, reserved bits and offsets 0, ID hard-wired (R21, R35). -/
def readReg (r : Reg) (s : State) : Word :=
  match r with
  | .id => idValue
  | .ctrl => ctrlWord s.ie
  | .status => statusWord s.status
  | .cmd => s.cmd
  | .dinHi => s.din.hi
  | .dinLo => s.din.lo
  | .doutHi => s.dout.hi
  | .doutLo => s.dout.lo
  | .res => s.res
  | .ctrHi => s.ctr.hi
  | .ctrLo => s.ctr.lo
  | .mkLen => s.mkLen.setWidth 32
  | .mk w => keyReg s w.val
  | .rkHi k => (slotKey s k.val).hi
  | .rkLo k => (slotKey s k.val).lo
  | .rkinfo => rkInfoWord s.rkinfo
  | .sboxLo t => s.sbox[t].lo
  | .sboxHi t => s.sbox[t].hi
  | .reserved => 0#32

/-- MK_LEN is WARL (R30): bits 5:0 of the written value, or the buffer's capacity `cap` (`MK_CAP`) where they are above
it. -/
def mkLenLegal (cap : Nat) (v : Word) : BitVec 6 :=
  if cap < (v.extractLsb' 0 6).toNat then BitVec.ofNat 6 cap else v.extractLsb' 0 6

/-- A write accepted while BUSY = 0, by the rules of 10_state.md. A write to a read-only register or a reserved offset
is ignored without error (R21, R27, R28, R33, R34, R35), and so is one to an MK register past the buffer (log 21). -/
def writeReg (p : Params) (r : Reg) (v : Word) (s : State) : State :=
  match r with
  | .id => s
  | .ctrl => { s with ie := v.getLsbD 0 }
  | .status => writeStatus v s
  | .cmd => issue v s
  | .dinHi => { s with din := { s.din with hi := v } }
  | .dinLo => { s with din := { s.din with lo := v } }
  | .doutHi => s
  | .doutLo => s
  | .res => s
  | .ctrHi => { s with ctr := { s.ctr with hi := v } }
  | .ctrLo => { s with ctr := { s.ctr with lo := v } }
  | .mkLen => { s with mkLen := mkLenLegal p.mkCap v }
  | .mk w => { s with mkey := s.mkey.set w.val v }
  | .rkHi _ => s
  | .rkLo _ => s
  | .rkinfo => s
  | .sboxLo t => { s with sbox := s.sbox.set t { s.sbox[t] with lo := v } }
  | .sboxHi t => { s with sbox := s.sbox.set t { s.sbox[t] with hi := v } }
  | .reserved => s

/-- A host write of v to the register r (R204, R205): performed, unless BUSY = 1 and r is not STATUS. -/
def hostWrite (p : Params) (r : Reg) (v : Word) (s : State) : State :=
  if s.status.busy && r != .status then dropWrite s else writeReg p r v s

/-- The accesses that get `bus_err` (R63): a misaligned offset, or a write without all strobes. -/
def badAccess (a : BusAccess) : Bool := a.addr.extractLsb' 0 2 != 0#2 || (a.write && a.wstrb != 0xF#4)

/-- One host access (R62, R63): its effect on the core, and the bus's response. -/
def hostAccess (p : Params) (a : BusAccess) (s : State) : State :=
  if badAccess a then
    { s with lastResp := some { rdata := if a.write then none else some 0#32, err := true } }
  else if a.write then
    { hostWrite p (regAt a.addr) a.wdata s with lastResp := some { rdata := none, err := false } }
  else
    { s with lastResp := some { rdata := some (readReg (regAt a.addr) s), err := false } }

end Sys2Proof.Machine
end

