-- ==== Sys2Proof/Machine/Completion.lean ====
section
/-! DEFINITION. The two agents' steps (20_memory.md R60; 60_exceptions.md R204), for the parameters of 00_scope.md R7 and the
commands' meanings `run`, and how a command word reaches the latch that the core's step reads (log 8). Step.lean puts in this
hardware's parameters and `exec`, Parametric.lean any parameters and `execWith`. -/

namespace Sys2Proof.Machine

/-- The core's step (R204): with a command pending it completes, an Illegal word with ILLEGAL (30_encoding.md R87) and
nothing else; with none pending the core waits for the host (R231). -/
def coreStep (run : Instr → State → Host.Outcome State Fault Refusal) (s : State) : Host.Outcome State Fault Refusal :=
  match s.pending with
  | none => .next s
  | some w =>
    match decode w with
    | none => .next (raiseCmdError .illegal s)
    | some i => run i s

/-- The step of the turn `t` (R73, R230). -/
def takeTurn (p : Params) (run : Instr → State → Host.Outcome State Fault Refusal) (t : Turn) (s : State) :
    Host.Outcome State Fault Refusal :=
  match t with
  | .complete => coreStep run s
  | .access a => .next (hostAccess p a s)
  | .reset a => .next (resetEdge p a s)

/-- One step: the next scheduled turn, or, with none scheduled, the core's own step (R206, R231, R241; log 1). -/
def nextMove (p : Params) (run : Instr → State → Host.Outcome State Fault Refusal) (s : State) :
    Host.Outcome State Fault Refusal :=
  match s.turns with
  | [] => coreStep run s
  | t :: rest => takeTurn p run t { s with turns := rest }

/-- s with the command word of `nbits` bits issued (R204) and the core to move next, so that the next step is that
command's completion. -/
def placeCommand (nbits w : Nat) (s : State) : State :=
  { issue (BitVec.ofNat 32 (w % 2 ^ nbits)) s with turns := [] }

end Sys2Proof.Machine
end

