-- ==== Sys2Proof/Machine/BlockTransform.lean ====
section
/-! DEFINITION. The block-transform family: FENC, FDEC (43_block_transform.md). -/

namespace Sys2Proof.Machine

/-- FENC s (R142): DOUT <- ENC(RK[s], DIN). -/
def fencWith (p : Params) (k : Fin slotCodes) (s : State) : State :=
  withKeys [k.val] (fun s => { s with dout := encBlock p s.sbox (slotKey s k.val) s.din }) s

/-- FENC on this hardware. -/
def execFenc (k : Fin slotCodes) (s : State) : Host.Outcome State Fault Refusal := .next (fencWith hwParams k s)

/-- FDEC s (R143): DOUT <- DEC(RK[s], DIN). -/
def fdecWith (p : Params) (k : Fin slotCodes) (s : State) : State :=
  withKeys [k.val] (fun s => { s with dout := decBlock p s.sbox (slotKey s k.val) s.din }) s

/-- FDEC on this hardware. -/
def execFdec (k : Fin slotCodes) (s : State) : Host.Outcome State Fault Refusal := .next (fdecWith hwParams k s)

end Sys2Proof.Machine
end

