-- ==== Sys2Proof/Machine/Control.lean ====
section
/-! DEFINITION. The control family: NOP, ZEROIZE (46_control.md). -/

namespace Sys2Proof.Machine

/-- NOP (R190): nothing but the completion. -/
def execNop (s : State) : Host.Outcome State Fault Refusal := .next (completeOk s)

/-- ZEROIZE (R191): key material and data buffers cleared; CTR, CTRL, CMD and the S-box registers kept. -/
def zeroizeWith (p : Params) (s : State) : State := completeOk (clearSecrets p s)

/-- ZEROIZE on this hardware. -/
def execZeroize (s : State) : Host.Outcome State Fault Refusal := .next (zeroizeWith hwParams s)

end Sys2Proof.Machine
end

