-- ==== Sys2Proof/Machine/CounterMode.lean ====
section
/-! DEFINITION. The counter-mode family: CTR, CTRINC (45_counter_mode.md). -/

namespace Sys2Proof.Machine

/-- CTR s, len (R171): DOUT <- DIN ^ ENC(RK[s], CTR) on bytes 0..len-1, 0x00 after them; CTR <- INC64(CTR). -/
def ctrWith (p : Params) (k : Fin slotCodes) (len : Nat) (s : State) : State :=
  withKeys [k.val]
    (fun s =>
      { s with
        dout := keepFirst len (xorBlock s.din (encBlock p s.sbox (slotKey s k.val) s.ctr))
        ctr := inc64 s.ctr }) s

/-- CTR on this hardware. -/
def execCtr (k : Fin slotCodes) (len : Nat) (s : State) : Host.Outcome State Fault Refusal := .next (ctrWith hwParams k len s)

/-- CTRINC (R172): CTR <- INC64(CTR). -/
def execCtrinc (s : State) : Host.Outcome State Fault Refusal :=
  .next (completeOk { s with ctr := inc64 s.ctr })

end Sys2Proof.Machine
end

