-- ==== Sys2Proof/Machine/EdeMode.lean ====
section
/-! DEFINITION. The triple-EDE family: EDE (44_ede_mode.md). -/

namespace Sys2Proof.Machine

/-- EDE len (R161, R162): DOUT <- EDE3(RK[0], RK[1], RK[2], DIN[0..len-1]), DOUT bytes len..7 <- 0. -/
def edeWith (p : Params) (len : Nat) (s : State) : State :=
  withKeys [0, 1, 2] (fun s => { s with dout := ede3 p s.sbox (slotKey s 0) (slotKey s 1) (slotKey s 2) len s.din }) s

/-- EDE on this hardware. -/
def execEde (len : Nat) (s : State) : Host.Outcome State Fault Refusal := .next (edeWith hwParams len s)

end Sys2Proof.Machine
end

