-- ==== Sys2Proof/Machine/KeySchedule.lean ====
section
/-! DEFINITION. The key-schedule family: KEYGEN, KEYGEN.EDE, KEYGEN.CTR (41_key_schedule.md). -/

namespace Sys2Proof.Machine

/-- KEYGEN rc, bs (R111): rc slices of bs bytes; RK_COUNT when MK_LEN < rc*bs. -/
def keygenWith (p : Params) (rc bs : Nat) (s : State) : State := runKeygen p (rc * bs) .rkCount rc bs s

/-- KEYGEN on this hardware. -/
def execKeygen (rc bs : Nat) (s : State) : Host.Outcome State Fault Refusal := .next (keygenWith hwParams rc bs s)

/-- KEYGEN.EDE (R113): three slices of 8 bytes; KEY_LEN when MK_LEN < 24. -/
def keygenEdeWith (p : Params) (s : State) : State := runKeygen p edeKeyMin .keyLen edeSlots blkBytes s

/-- KEYGEN.EDE on this hardware. -/
def execKeygenEde (s : State) : Host.Outcome State Fault Refusal := .next (keygenEdeWith hwParams s)

/-- KEYGEN.CTR (R114): two slices of 8 bytes; KEY_LEN when MK_LEN < 16. -/
def keygenCtrWith (p : Params) (s : State) : State := runKeygen p ctrKeyMin .keyLen ctrSlots blkBytes s

/-- KEYGEN.CTR on this hardware. -/
def execKeygenCtr (s : State) : Host.Outcome State Fault Refusal := .next (keygenCtrWith hwParams s)

end Sys2Proof.Machine
end

