-- ==== Sys2Proof/Machine/RoundFunction.lean ====
section
/-! DEFINITION. The round-function family: ROUNDF (42_round_function.md). -/

namespace Sys2Proof.Machine

/-- ROUNDF s, r (R131): RES <- F(DIN_LO, RK4_SEL(RK[s], r)). -/
def roundfWith (p : Params) (k : Fin slotCodes) (r : Fin rounds) (s : State) : State :=
  withKeys [k.val] (fun s => { s with res := roundFn p.rfHigh s.sbox s.din.lo (p.rk4Sel (slotKey s k.val) r) }) s

/-- ROUNDF on this hardware. -/
def execRoundf (k : Fin slotCodes) (r : Fin rounds) (s : State) : Host.Outcome State Fault Refusal :=
  .next (roundfWith hwParams k r s)

end Sys2Proof.Machine
end

