-- ==== Sys2Proof/Machine/Sbox.lean ====
section
/-! DEFINITION. The S-box family: SBOX (40_sbox.md). -/

namespace Sys2Proof.Machine

/-- SBOX t, v (R101): RES <- zext_32(SBOX(t, v)). -/
def execSbox (t : Fin sbTables) (v : Nibble) (s : State) : Host.Outcome State Fault Refusal :=
  .next (completeOk { s with res := (sboxLookup s.sbox t v).setWidth 32 })

end Sys2Proof.Machine
end

