-- ==== Sys2Proof/Machine/Dispatch.lean ====
section
/-! DEFINITION. One arm per command: its meaning. -/

namespace Sys2Proof.Machine

/-- The completion of a decoded command (60_exceptions.md R204): its results, and the completion or error flags. -/
def exec (i : Instr) (s : State) : Host.Outcome State Fault Refusal :=
  match i with
  | .nop => Sys2Proof.Machine.execNop s
  | .sbox t v => Sys2Proof.Machine.execSbox t v s
  | .roundf k r => Sys2Proof.Machine.execRoundf k r s
  | .fenc k => Sys2Proof.Machine.execFenc k s
  | .fdec k => Sys2Proof.Machine.execFdec k s
  | .ede len => Sys2Proof.Machine.execEde len s
  | .ctr k len => Sys2Proof.Machine.execCtr k len s
  | .ctrinc => Sys2Proof.Machine.execCtrinc s
  | .keygen rc bs => Sys2Proof.Machine.execKeygen rc bs s
  | .keygenEde => Sys2Proof.Machine.execKeygenEde s
  | .keygenCtr => Sys2Proof.Machine.execKeygenCtr s
  | .zeroize => Sys2Proof.Machine.execZeroize s

end Sys2Proof.Machine
end

