-- ==== Sys2Proof/Machine/Step.lean ====
section
/-! DEFINITION. One step of this hardware: the move of Completion.lean, with the commands' meanings `exec`. -/

namespace Sys2Proof.Machine

/-- One step. -/
def step (s : State) : Host.Outcome State Fault Refusal := nextMove hwParams exec s

/-- The command word where the next step takes it from: the in-flight latch, as the CMD write that issues it leaves it
(30_encoding.md R80, 60_exceptions.md R204), with no host turn before the completion. Log 8. -/
def State.withFetchWord (s : State) (nbits w : Nat) : State := placeCommand nbits w s

end Sys2Proof.Machine
end

