-- ==== Sys2Proof/Machine/Parametric.lean ====
section
/-! DEFINITION. The machine under any value of the parameters of 00_scope.md R7, for claims that quantify over them: its
commands, its step, and the machine with its reset state. At this hardware's values these are `exec`, `step` and
`Sys2Proof.core` (Laws/Parametric.lean). -/

namespace Sys2Proof.Machine

/-- The completion of a decoded command under the parameters p. NOP, SBOX and CTRINC are those of `exec`: no parameter bears on
them. -/
def execWith (p : Params) (i : Instr) (s : State) : Host.Outcome State Fault Refusal :=
  match i with
  | .nop => execNop s
  | .sbox t v => execSbox t v s
  | .roundf k r => .next (roundfWith p k r s)
  | .fenc k => .next (fencWith p k s)
  | .fdec k => .next (fdecWith p k s)
  | .ede len => .next (edeWith p len s)
  | .ctr k len => .next (ctrWith p k len s)
  | .ctrinc => execCtrinc s
  | .keygen rc bs => .next (keygenWith p rc bs s)
  | .keygenEde => .next (keygenEdeWith p s)
  | .keygenCtr => .next (keygenCtrWith p s)
  | .zeroize => .next (zeroizeWith p s)

/-- One step of the machine whose parameters are p. -/
def stepWith (p : Params) (s : State) : Host.Outcome State Fault Refusal := nextMove p (execWith p) s

/-- The machine whose parameters are p. -/
def machineWith (p : Params) : Host.Core :=
  { State := State, Fault := Fault, Refusal := Refusal, step := stepWith p, reset := resetState p }

end Sys2Proof.Machine
end

