-- ==== Sys2Proof/Safety.lean ====
section
/-! DEFINITION. What the spec promises of every state the machine can be in, for the parameters p of 00_scope.md R7: the latch
and BUSY (10_state.md R38), the error fields (R24), the sizes of the key buffer and of the slots (R31, R33), the master-key
length (R30) and the key schedule (R34, 41_key_schedule.md R110 to R114). -/

namespace Sys2Proof.Machine

/-- BUSY = 1 exactly when a command is pending (R38); the pending word is the one CMD holds (R25, R204); DONE is 0 while
BUSY is 1 (R23, R204). -/
abbrev LatchOk (s : State) : Prop :=
  s.status.busy = s.pending.isSome ∧ (s.pending = none ∨ s.pending = some s.cmd) ∧
    (s.status.busy = true → s.status.done = false)

/-- ERRCODE is nonzero exactly when ERR is 1 (R24). -/
abbrev ErrorOk (s : State) : Prop := s.status.err = false ↔ s.status.errcode = .noError

/-- The buffer has its `MK_CAP` bytes, in whole registers (R31), and there are `RK_SLOTS` slots (R33). -/
abbrev ShapeOk (p : Params) (s : State) : Prop := s.mkey.length = p.keyRegs ∧ s.rk.length = p.rkSlots

/-- LEN is 0..MK_CAP (R30). -/
abbrev KeyLengthOk (p : Params) (s : State) : Prop := s.mkLen.toNat ≤ p.mkCap

/-- RKINFO is the record of one successful KEYGEN, or of none, and the slots fit it (R34, R110 to R114):
RC is 0..4, VALID = (1 << RC) - 1, cut to the slots there are (log 21), slots at RC and above are zero, and so are a slot's
bytes at BS and above. -/
abbrev ScheduleOk (p : Params) (s : State) : Prop :=
  s.rkinfo.rc.toNat ≤ 4 ∧ s.rkinfo.bs.toNat ≤ blkBytes ∧ s.rkinfo.rc.toNat * s.rkinfo.bs.toNat ≤ p.mkCap ∧
    (s.rkinfo.rc = 0#3 ↔ s.rkinfo.bs = 0#4) ∧ s.rkinfo.valid.toNat = 2 ^ min s.rkinfo.rc.toNat p.rkSlots - 1 ∧
    (∀ k : Fin p.rkSlots, s.rkinfo.rc.toNat ≤ k.val → slotKey s k.val = zeroBlock) ∧
    ∀ k : Fin p.rkSlots, ∀ j : Fin blkBytes, s.rkinfo.bs.toNat ≤ j.val → blockByte (slotKey s k.val) j.val = 0x00#8

/-- A state that keeps the spec's promises. -/
abbrev Consistent (p : Params) (s : State) : Prop :=
  LatchOk s ∧ ErrorOk s ∧ ShapeOk p s ∧ KeyLengthOk p s ∧ ScheduleOk p s

end Sys2Proof.Machine
end

