-- ==== Sys2Proof/Certificates/Slice0/Obligations.lean ====
section
/-! DEFINITION. The statements for the provers. The namespace Claims says what they rest on in the spec's own formulas
(shifts and ORs, as 00_scope.md R10 and the pseudocode write them), apart from the model's operations. -/

namespace Sys2Proof.Claims

open Sys2Proof.Machine

/-- Byte j (0..7) of a block (R10, R26): `bytes_be32` of the register that holds it. -/
def byteAt (b : Block) (j : Nat) : Byte := ((if j < 4 then b.hi else b.lo) >>> (24 - 8 * (j % 4))).setWidth 8

/-- MK[n] (R31): byte n mod 4 of register MK(n/4). -/
def keyByte (mk : List Word) (n : Nat) : Byte := ((mk[n / 4]?.getD 0#32) >>> (24 - 8 * (n % 4))).setWidth 8

/-- RK[k] (R33). -/
def slot (s : State) (k : Nat) : Block := (s.rk[k]?).getD ⟨0#32, 0#32⟩

/-- `be64` (R10), as a number. -/
def number (b : Block) : Nat := b.hi.toNat * 2 ^ 32 + b.lo.toNat

/-- SB[t][v] (R36). -/
def entryAt (tb : SboxTable) (v : Nibble) : Nibble :=
  ((if v.toNat < 8 then tb.lo else tb.hi) >>> (4 * (v.toNat % 8))).setWidth 4

/-- This hardware's parameters (R7): `SBOX_INIT` without a value (log 3), `RF_HIGH = ZERO`, `RK4_SEL = FIRST4`, the slot's bytes
0..3 in every round, `MK_CAP = 32` and `RK_SLOTS = 4`. -/
def hardware : Params :=
  { sboxInit := Config.sboxInit
    rfHigh := .zero
    rk4Sel := fun k8 _ => #v[byteAt k8 0, byteAt k8 1, byteAt k8 2, byteAt k8 3]
    mkCap := 32
    rkSlots := 4 }

/-- x of R130: the half XORed with the round-key bytes, byte i at bits 8i+7:8i. -/
def roundInput (h : Half) (k4 : Key4) : Half :=
  h ^^^ (k4[0].setWidth 32 ||| k4[1].setWidth 32 <<< 8 ||| k4[2].setWidth 32 <<< 16 ||| k4[3].setWidth 32 <<< 24)

/-- Nibble i of a word (R9). -/
def nibbleAt (w : Word) (i : Nat) : Nibble := (w >>> (4 * i)).setWidth 4

/-- HIGH(x) of R130, in bits 31:16: 0, or x's own bits, or nibbles 4..7 through tables 0..3. -/
def highOutput (rf : RfHigh) (sb : Vector SboxTable 4) (x : Half) : Half :=
  match rf with
  | .zero => 0#32
  | .pass => x &&& 0xFFFF0000#32
  | .subst8 =>
    (entryAt sb[0] (nibbleAt x 4)).setWidth 32 <<< 16 ||| (entryAt sb[1] (nibbleAt x 5)).setWidth 32 <<< 20 |||
      (entryAt sb[2] (nibbleAt x 6)).setWidth 32 <<< 24 ||| (entryAt sb[3] (nibbleAt x 7)).setWidth 32 <<< 28

/-- F(h, RK4_SEL(k8, r)) (R130, R135): nibbles 0..3 of x through tables 0..3, and HIGH(x) above them. -/
def roundOutput (p : Params) (sb : Vector SboxTable 4) (h : Half) (k8 : Block) (r : Fin 16) : Half :=
  let x := roundInput h (p.rk4Sel k8 r)
  (entryAt sb[0] (nibbleAt x 0)).setWidth 32 ||| (entryAt sb[1] (nibbleAt x 1)).setWidth 32 <<< 4 |||
    (entryAt sb[2] (nibbleAt x 2)).setWidth 32 <<< 8 ||| (entryAt sb[3] (nibbleAt x 3)).setWidth 32 <<< 12 |||
    highOutput p.rfHigh sb x

/-- o = ENC(k8, b) (R140): L and R after the rounds r = 0, 1, ..., 15, ascending, and the output R || L. -/
def IsEnc (p : Params) (sb : Vector SboxTable 4) (k8 b o : Block) : Prop :=
  ∃ L R : Nat → Half, L 0 = b.hi ∧ R 0 = b.lo ∧
    (∀ r : Fin 16, L (r.val + 1) = R r.val ∧ R (r.val + 1) = L r.val ^^^ roundOutput p sb (R r.val) k8 r) ∧
    o = ⟨R 16, L 16⟩

/-- o = DEC(k8, b) (R141): L and R after the rounds r = 15, 14, ..., 0, descending (round r is the one after 15 - r others),
and the output L || R. -/
def IsDec (p : Params) (sb : Vector SboxTable 4) (k8 b o : Block) : Prop :=
  ∃ L R : Nat → Half, L 0 = b.hi ∧ R 0 = b.lo ∧
    (∀ r : Fin 16, L (15 - r.val + 1) = R (15 - r.val) ^^^ roundOutput p sb (L (15 - r.val)) k8 r ∧
      R (15 - r.val + 1) = L (15 - r.val)) ∧
    o = ⟨L 16, R 16⟩

/-- The test tables TS_A (95_test_vectors.md section 0). -/
def tablesA : Vector SboxTable 4 :=
  #v[⟨0x2B4D6F81#32, 0xA3C5E709#32⟩, ⟨0x61C72D83#32, 0xE94FA50B#32⟩, ⟨0xDCFE98BA#32, 0x54761032#32⟩,
    ⟨0x14909410#32, 0x14909410#32⟩]

/-- The state at a completion without an error (R204), from the state with the command's results. -/
def done (s : State) : State :=
  { s with pending := none, status := { busy := false, done := true, err := s.status.err, errcode := s.status.errcode } }

/-- The state at a completion that raises c (R201). -/
def failed (c : ErrCode) (s : State) : State :=
  { s with pending := none, status := { busy := false, done := true, err := true, errcode := c } }

/-- RKINFO.VALID[k] = 1 (R34). -/
def valid (s : State) (k : Nat) : Prop := s.rkinfo.valid.getLsbD k = true

/-- n empty slots: what KFAIL, ZEROIZE and reset leave (R112, R191, R230). -/
def clearedSlots (n : Nat) : List Block := List.replicate n ⟨0#32, 0#32⟩

/-- RKINFO = 0. -/
def clearedInfo : RkInfo := { valid := 0#4, bs := 0#4, rc := 0#3 }

/-- The bits of the fields that R81 gives the form of a command. -/
def formBits : Instr → Word
  | .nop => 0x0000000F#32
  | .sbox _ _ => 0x00000FCF#32
  | .roundf _ _ => 0x00000F3F#32
  | .fenc _ => 0x0000003F#32
  | .fdec _ => 0x0000003F#32
  | .ede _ => 0x0000700F#32
  | .ctr _ _ => 0x0000703F#32
  | .ctrinc => 0x0000000F#32
  | .keygen _ _ => 0x007F000F#32
  | .keygenEde => 0x0003000F#32
  | .keygenCtr => 0x0003000F#32
  | .zeroize => 0x0000000F#32

/-- The slots a command reads (R200, NO_KEY's row). -/
def slotsRead : Instr → List Nat
  | .nop => []
  | .sbox _ _ => []
  | .roundf k _ => [k.val]
  | .fenc k => [k.val]
  | .fdec k => [k.val]
  | .ede _ => [0, 1, 2]
  | .ctr k _ => [k.val]
  | .ctrinc => []
  | .keygen _ _ => []
  | .keygenEde => []
  | .keygenCtr => []
  | .zeroize => []

/-- The three KEYGEN forms. -/
def isKeygen : Instr → Bool
  | .keygen _ _ => true
  | .keygenEde => true
  | .keygenCtr => true
  | _ => false

/-- The value that reading r gives after an accepted write of v to r, where it read `old` before, for a key buffer of `cap`
bytes in `words` registers (10_state.md: the access column of R20, R22, R30, R31, R35). STATUS and CMD are not meant here. -/
def afterWrite (cap words : Nat) (r : Reg) (v old : Word) : Word :=
  match r with
  | .ctrl => v &&& 1#32
  | .dinHi => v
  | .dinLo => v
  | .ctrHi => v
  | .ctrLo => v
  | .mkLen => if cap < (v &&& 0x3F#32).toNat then BitVec.ofNat 32 cap else v &&& 0x3F#32
  | .mk w => if w.val < words then v else 0#32
  | .sboxLo _ => v
  | .sboxHi _ => v
  | _ => old

/-- The reset column of R20 for a register other than an S-box register. -/
def resetColumn : Reg → Word
  | .id => 0x53425831#32
  | .ctrHi => 0x00010203#32
  | .ctrLo => 0x04050607#32
  | _ => 0#32

/-- A good write of v at an offset that names r (R62, R63). -/
def writes (a : BusAccess) (r : Reg) (v : Word) : Prop :=
  a.write = true ∧ a.wstrb = 0xF#4 ∧ a.addr.extractLsb' 0 2 = 0#2 ∧ regAt a.addr = r ∧ a.wdata = v

/-- A good read at an offset that names r; strobes are ignored (R63). -/
def reads (a : BusAccess) (r : Reg) : Prop :=
  a.write = false ∧ a.addr.extractLsb' 0 2 = 0#2 ∧ regAt a.addr = r

/-- A misaligned access, or a write without all strobes (R63). -/
def malformed (a : BusAccess) : Prop :=
  a.addr.extractLsb' 0 2 ≠ 0#2 ∨ (a.write = true ∧ a.wstrb ≠ 0xF#4)

/-- The next move is neither a host access nor a reset edge. -/
def coreMoves (s : State) : Prop :=
  (∀ a rest, s.turns ≠ Turn.access a :: rest) ∧ ∀ a rest, s.turns ≠ Turn.reset a :: rest

/-- The response of a write without `bus_err`; the model gives it no read data (log 6). -/
def wrote : Option BusResponse := some { rdata := none, err := false }

/-- The response to a read of value v. -/
def answered (v : Word) : Option BusResponse := some { rdata := some v, err := false }

/-- The CTR commands of a payload's chunks under the parameters p, each with DIN loaded by the host (R174): the DOUT blocks,
and the last state. -/
def ctrChunks (p : Params) (k : Fin 4) : List (Block × Nat) → State → Option (List Block × State)
  | [], s => some ([], s)
  | (d, n) :: rest, s =>
    match execWith p (.ctr k n) { s with din := d } with
    | .next t => (ctrChunks p k rest t).map fun q => (t.dout :: q.1, q.2)
    | .fault _ => none
    | .refused _ => none

end Sys2Proof.Claims

open Sys2Proof Sys2Proof.Machine Sys2Proof.Claims

/-! ### Encoding -/

/-- Encoding a command whose operands are in range, and decoding the word, gives the command back (R81, R86, R90). -/
def Obligations.EncodeThenDecodeGivesTheCommand : Prop :=
  ∀ i : Instr, i.wellFormed = true → decode (encode i) = some i

/-- R82: each legal word has exactly one spelling; a word with a 1 outside its form's fields is illegal. -/
def Obligations.EveryLegalWordHasOneSpelling : Prop :=
  (∀ (w : Word) (i : Instr), decode w = some i → i.wellFormed = true ∧ encode i = w ∧ w &&& ~~~(formBits i) = 0#32) ∧
    (∀ w : Word, w &&& 0xFF808000#32 ≠ 0#32 → decode w = none)

/-- R88's reserved words, and R190's: OP 0xA..0xF, KEYGEN with SCHEME = 11, bit 15 or a bit of 31:23 set, and OP 0 with
any other bit set decode as Illegal. -/
def Obligations.ReservedWordsDecodeAsIllegal : Prop :=
  ∀ w : Word,
    (10 ≤ (w.extractLsb' 0 4).toNat → decode w = none) ∧
    (w.extractLsb' 0 4 = 8#4 → w.extractLsb' 16 2 = 3#2 → decode w = none) ∧
    (w.getLsbD 15 = true ∨ w.extractLsb' 23 9 ≠ 0#9 → decode w = none) ∧
    (w.extractLsb' 0 4 = 0#4 → w ≠ 0#32 → decode w = none)

/-- "No two rows match the same word" (R86). -/
def Obligations.OpcodeRowsNeverOverlap : Prop :=
  opcodeRows.Pairwise fun r1 r2 => ∀ w : Word, ¬ (r1.matchesWord w = true ∧ r2.matchesWord w = true)

/-- A few words of 95_test_vectors.md, one of each family, decode to the command they stand for. -/
def Obligations.SampleWordsDecode : Prop :=
  decode 0x000006C1#32 = some (.sbox 3 6#4) ∧ decode 0x00000502#32 = some (.roundf 0 5) ∧
    decode 0x00000023#32 = some (.fenc 2) ∧ decode 0x00000004#32 = some (.fdec 0) ∧
    decode 0x00002005#32 = some (.ede 3) ∧ decode 0x00007016#32 = some (.ctr 1 8) ∧
    decode 0x004C0008#32 = some (.keygen 4 5) ∧ decode 0x00010008#32 = some .keygenEde ∧
    decode 0x00020008#32 = some .keygenCtr ∧ decode 0x00000009#32 = some .zeroize ∧ decode 0x00008005#32 = none

/-! ### The step -/

/-- The core's step completes the decoded pending command (R204), on this hardware and under every value of the parameters (R7);
with no turn scheduled it is the core's (log 1). -/
def Obligations.StepRunsTheDecodedCommand : Prop :=
  ∀ (s : State) (w : Word) (i : Instr), s.pending = some w → decode w = some i →
    (s.turns = [] → step s = exec i s ∧ ∀ p : Params, stepWith p s = execWith p i s) ∧
    ∀ rest, s.turns = Turn.complete :: rest → step s = exec i { s with turns := rest } ∧
      ∀ p : Params, stepWith p s = execWith p i { s with turns := rest }

/-- An Illegal word completes with ILLEGAL and changes no register except STATUS (R87). With no turn scheduled the step is
the core's (log 1). -/
def Obligations.IllegalWordCompletesWithIllegal : Prop :=
  ∀ (s : State) (w : Word) (rest : List Turn), s.pending = some w → decode w = none →
    (s.turns = [] → step s = .next (failed .illegal s)) ∧
    (s.turns = Turn.complete :: rest → step s = .next (failed .illegal { s with turns := rest }))

/-- The core never stops (R206): every step answers a next state, and the core's step, whenever a command is pending,
completes it: the latch is empty, BUSY is 0 and DONE is 1. With none pending the completion is not enabled (R204) and the core
waits (R231): its step changes nothing but the turn it uses up. The same holds under every value of the parameters (R7). With no
turn scheduled the step is the core's (log 1). -/
def Obligations.EveryPendingCommandCompletes : Prop :=
  let completesOrWaits (next : State → Host.Outcome State Fault Refusal) : Prop :=
    (∀ s : State, ∃ t, next s = .next t) ∧
    (∀ s : State, s.pending.isSome = true → (s.turns = [] ∨ ∃ rest, s.turns = Turn.complete :: rest) →
      ∃ t, next s = .next t ∧ t.pending = none ∧ t.status.busy = false ∧ t.status.done = true) ∧
    ∀ s : State, s.pending = none →
      (s.turns = [] → next s = .next s) ∧
      ∀ rest, s.turns = Turn.complete :: rest → next s = .next { s with turns := rest }
  completesOrWaits step ∧ ∀ p : Params, completesOrWaits (stepWith p)

/-! ### The commands -/

/-- NOP (R190): only the completion; a sticky ERR stays. -/
def Obligations.NopOnlyCompletes : Prop :=
  ∀ s : State, exec .nop s = .next (done s)

/-- SBOX (R101, R36): RES takes the stored entry, zero-extended; nothing else but the completion. -/
def Obligations.SboxWritesTheStoredEntry : Prop :=
  ∀ (s : State) (t : Fin 4) (v : Nibble),
    exec (.sbox t v) s = .next (done { s with res := (entryAt s.sbox[t] v).setWidth 32 })

/-- The commands, the step and the reset state are those of the parametric machine at this hardware's parameters (R7, D5 to D9),
so that what is said of every parameter is said of this hardware. -/
def Obligations.ExecUsesTheHardwaresParameters : Prop :=
  (∀ (i : Instr) (s : State), exec i s = execWith hardware i s) ∧ (∀ s : State, step s = stepWith hardware s) ∧
    State.reset = resetState hardware

/-- ROUNDF under a valid slot (R130, R131, R135): RES takes F(DIN_LO, RK4_SEL(RK[s], r)); on this hardware, and under every
value of the parameters (R7). -/
def Obligations.RoundfWritesTheRoundFunction : Prop :=
  ∀ (s : State) (k : Fin 4) (r : Fin 16), valid s k →
    exec (.roundf k r) s = .next (done { s with res := roundOutput hardware s.sbox s.din.lo (slot s k.val) r }) ∧
    ∀ p : Params, execWith p (.roundf k r) s = .next (done { s with res := roundOutput p s.sbox s.din.lo (slot s k.val) r })

/-- FENC under a valid slot (R140, R142): DOUT takes ENC(RK[s], DIN); on this hardware, and under every value of the
parameters (R7), each round with the key bytes of its own index (R147). -/
def Obligations.FencEncryptsDin : Prop :=
  ∀ (s : State) (k : Fin 4), valid s k →
    (∃ o, IsEnc hardware s.sbox (slot s k.val) s.din o ∧ exec (.fenc k) s = .next (done { s with dout := o })) ∧
    ∀ p : Params, ∃ o, IsEnc p s.sbox (slot s k.val) s.din o ∧ execWith p (.fenc k) s = .next (done { s with dout := o })

/-- FDEC under a valid slot (R141, R143): DOUT takes DEC(RK[s], DIN); on this hardware, and under every value of the
parameters (R7), each round with the key bytes of its own index (R147). -/
def Obligations.FdecDecryptsDin : Prop :=
  ∀ (s : State) (k : Fin 4), valid s k →
    (∃ o, IsDec hardware s.sbox (slot s k.val) s.din o ∧ exec (.fdec k) s = .next (done { s with dout := o })) ∧
    ∀ p : Params, ∃ o, IsDec p s.sbox (slot s k.val) s.din o ∧ execWith p (.fdec k) s = .next (done { s with dout := o })

/-- EDE under valid slots 0 to 2 (R160, R161, R162): the first len bytes of DIN, zero-padded, through encrypt, decrypt
and encrypt; DOUT takes the first len bytes of the result and 0x00 after them; on this hardware, and under every value of
the parameters (R7). -/
def Obligations.EdeRunsThreePasses : Prop :=
  ∀ (s : State) (len : Nat), 1 ≤ len → len ≤ 8 → valid s 0 → valid s 1 → valid s 2 →
    let passes (p : Params) (o : Block) : Prop :=
      ∃ sc a b c, (∀ j, j < 8 → byteAt sc j = if j < len then byteAt s.din j else 0x00#8) ∧
        IsEnc p s.sbox (slot s 0) sc a ∧ IsDec p s.sbox (slot s 1) a b ∧ IsEnc p s.sbox (slot s 2) b c ∧
        ∀ j, j < 8 → byteAt o j = if j < len then byteAt c j else 0x00#8
    (∃ o, passes hardware o ∧ exec (.ede len) s = .next (done { s with dout := o })) ∧
    ∀ p : Params, ∃ o, passes p o ∧ execWith p (.ede len) s = .next (done { s with dout := o })

/-- CTR under a valid slot (R171): DOUT is DIN ^ ENC(RK[s], CTR) on the first len bytes and 0x00 after them, and CTR
is incremented once, modulo 2^64; on this hardware, and under every value of the parameters (R7). -/
def Obligations.CtrXorsTheKeystreamAndCounts : Prop :=
  ∀ (s : State) (k : Fin 4) (len : Nat), 1 ≤ len → len ≤ 8 → valid s k →
    let results (p : Params) (o c : Block) : Prop :=
      ∃ ks, IsEnc p s.sbox (slot s k.val) s.ctr ks ∧
        (∀ j, j < 8 → byteAt o j = if j < len then byteAt s.din j ^^^ byteAt ks j else 0x00#8) ∧
        number c = (number s.ctr + 1) % 2 ^ 64
    (∃ o c, results hardware o c ∧ exec (.ctr k len) s = .next (done { s with dout := o, ctr := c })) ∧
    ∀ p : Params, ∃ o c, results p o c ∧ execWith p (.ctr k len) s = .next (done { s with dout := o, ctr := c })

/-- CTRINC (R170, R172): CTR is incremented modulo 2^64; no flag records a wrap. -/
def Obligations.CtrincAddsOne : Prop :=
  ∀ s : State, ∃ c, number c = (number s.ctr + 1) % 2 ^ 64 ∧ exec .ctrinc s = .next (done { s with ctr := c })

/-- KEYGEN with a long enough key (R110, R111): slot k takes bytes k*bs .. k*bs+bs-1 of MK and then 0x00, slots at rc and
above are cleared, and RKINFO = ((1<<RC)-1) | BS<<8 | RC<<16. Under every value of the parameters (R7) the same, for RK_SLOTS
slots, VALID having one bit for each slot there is (log 21). -/
def Obligations.KeygenSlicesTheKey : Prop :=
  ∀ (s : State) (rc bs : Nat), 1 ≤ rc → rc ≤ 4 → 1 ≤ bs → bs ≤ 8 → rc * bs ≤ s.mkLen.toNat →
    let slices (slots : List Block) : Prop := ∀ k j : Nat, k < slots.length → j < 8 →
      (slots[k]?).map (fun b => byteAt b j) =
        some (if k < rc ∧ j < bs then keyByte s.mkey (k * bs + j) else 0x00#8)
    let record (valid : Nat) (info : RkInfo) : Prop :=
      readReg .rkinfo { s with rkinfo := info } = BitVec.ofNat 32 (valid ||| (bs <<< 8) ||| (rc <<< 16))
    (∃ (slots : List Block) (info : RkInfo), slots.length = 4 ∧ slices slots ∧ record (2 ^ rc - 1) info ∧
      exec (.keygen rc bs) s = .next (done { s with rk := slots, rkinfo := info })) ∧
    ∀ p : Params, ∃ (slots : List Block) (info : RkInfo), slots.length = p.rkSlots ∧ slices slots ∧
      record (2 ^ min rc p.rkSlots - 1) info ∧
      execWith p (.keygen rc bs) s = .next (done { s with rk := slots, rkinfo := info })

/-- KEYGEN.EDE with MK_LEN at least 24 and KEYGEN.CTR with MK_LEN at least 16 (R113, R114): three, or two, slices of 8
bytes, the other slots cleared, RKINFO = 0x00030807, or 0x00020803. Under every value of the parameters (R7) the same, for
RK_SLOTS slots, VALID having one bit for each slot there is (log 21). -/
def Obligations.SchemeKeygenSlicesTheKey : Prop :=
  ∀ s : State,
    let slices (rc : Nat) (slots : List Block) : Prop := ∀ k j : Nat, k < slots.length → j < 8 →
      (slots[k]?).map (fun b => byteAt b j) = some (if k < rc then keyByte s.mkey (k * 8 + j) else 0x00#8)
    let record (rc valid : Nat) (info : RkInfo) : Prop :=
      readReg .rkinfo { s with rkinfo := info } = BitVec.ofNat 32 (valid ||| (8 <<< 8) ||| (rc <<< 16))
    (24 ≤ s.mkLen.toNat →
      (∃ (slots : List Block) (info : RkInfo), slots.length = 4 ∧ slices 3 slots ∧
        readReg .rkinfo { s with rkinfo := info } = 0x00030807#32 ∧
        exec .keygenEde s = .next (done { s with rk := slots, rkinfo := info })) ∧
      ∀ p : Params, ∃ (slots : List Block) (info : RkInfo), slots.length = p.rkSlots ∧ slices 3 slots ∧
        record 3 (2 ^ min 3 p.rkSlots - 1) info ∧
        execWith p .keygenEde s = .next (done { s with rk := slots, rkinfo := info })) ∧
    (16 ≤ s.mkLen.toNat →
      (∃ (slots : List Block) (info : RkInfo), slots.length = 4 ∧ slices 2 slots ∧
        readReg .rkinfo { s with rkinfo := info } = 0x00020803#32 ∧
        exec .keygenCtr s = .next (done { s with rk := slots, rkinfo := info })) ∧
      ∀ p : Params, ∃ (slots : List Block) (info : RkInfo), slots.length = p.rkSlots ∧ slices 2 slots ∧
        record 2 (2 ^ min 2 p.rkSlots - 1) info ∧
        execWith p .keygenCtr s = .next (done { s with rk := slots, rkinfo := info }))

/-- A KEYGEN on too short a key (R111 to R114): KFAIL clears the schedule, and the completion reports RK_COUNT for the
generic form, KEY_LEN for the schemes; nothing else changes. Under every value of the parameters (R7) the same. -/
def Obligations.ShortKeyClearsTheSchedule : Prop :=
  ∀ s : State,
    let fails (c : ErrCode) (i : Instr) : Prop :=
      exec i s = .next (failed c { s with rk := clearedSlots 4, rkinfo := clearedInfo }) ∧
      ∀ p : Params, execWith p i s = .next (failed c { s with rk := clearedSlots p.rkSlots, rkinfo := clearedInfo })
    (∀ rc bs : Nat, 1 ≤ rc → rc ≤ 4 → 1 ≤ bs → bs ≤ 8 → s.mkLen.toNat < rc * bs → fails .rkCount (.keygen rc bs)) ∧
    (s.mkLen.toNat < 24 → fails .keyLen .keygenEde) ∧
    (s.mkLen.toNat < 16 → fails .keyLen .keygenCtr)

/-- ZEROIZE (R191): MK, MK_LEN, RK, RKINFO, DIN, DOUT and RES are cleared; CTR, CTRL, CMD and the tables are kept. Under every
value of the parameters (R7) the same, for its slots and its key registers. -/
def Obligations.ZeroizeClearsKeysAndData : Prop :=
  ∀ s : State,
    let zeroized (slots words : Nat) : State := done
      { s with
        mkey := List.replicate words 0#32
        mkLen := 0#6
        rk := clearedSlots slots
        rkinfo := clearedInfo
        din := ⟨0#32, 0#32⟩
        dout := ⟨0#32, 0#32⟩
        res := 0#32 }
    exec .zeroize s = .next (zeroized 4 8) ∧
    ∀ p : Params, ∃ words, p.mkCap ≤ 4 * words ∧ 4 * words < p.mkCap + 4 ∧
      execWith p .zeroize s = .next (zeroized p.rkSlots words)

/-- A command that reads a slot with VALID = 0 raises NO_KEY and writes nothing but the completion's flags (R200, R201), under
every value of the parameters (R7). -/
def Obligations.MissingKeyRaisesNoKey : Prop :=
  ∀ (i : Instr) (s : State), (∃ k ∈ slotsRead i, ¬ valid s k) →
    exec i s = .next (failed .noKey s) ∧ ∀ p : Params, execWith p i s = .next (failed .noKey s)

/-! ### Rules over all commands -/

/-- R202: every legal data command with valid slots succeeds: it completes and raises nothing. And no command fails
because of a data value: STATUS after any command is the same in two states that agree on STATUS, MK_LEN and RKINFO,
whatever the tables, DIN, CTR and MK hold. -/
def Obligations.DataCommandsWithKeysSucceed : Prop :=
  (∀ (i : Instr) (s : State), i.wellFormed = true → isKeygen i = false → (∀ k ∈ slotsRead i, valid s k) →
    ∃ t, exec i s = .next t ∧
      t.status = { busy := false, done := true, err := s.status.err, errcode := s.status.errcode } ∧ t.pending = none) ∧
  ∀ (i : Instr) (s s' : State), i.wellFormed = true →
    s'.status = s.status → s'.mkLen = s.mkLen → s'.rkinfo = s.rkinfo →
    ∃ t t', exec i s = .next t ∧ exec i s' = .next t' ∧ t'.status = t.status

/-- R201: errors are precise. Every completion empties the latch, clears BUSY and sets DONE; it keeps ERR and ERRCODE, or
it raises KEY_LEN, RK_COUNT or NO_KEY and leaves every register but STATUS, and the schedule that KFAIL clears, as it was. -/
def Obligations.CommandErrorsArePrecise : Prop :=
  ∀ (i : Instr) (s t : State), exec i s = .next t →
    t.pending = none ∧ t.status.busy = false ∧ t.status.done = true ∧
    ((t.status.err = s.status.err ∧ t.status.errcode = s.status.errcode) ∨
      t = failed .noKey s ∨
      ∃ c, (c = .keyLen ∨ c = .rkCount) ∧ t = failed c { s with rk := clearedSlots 4, rkinfo := clearedInfo })

/-- Which registers the completion of a command may write (R26 to R37, R40): the S-box registers, CTRL and CMD never;
DIN, MK and MK_LEN only by ZEROIZE; DOUT only by FENC, FDEC, EDE, CTR and ZEROIZE; RES only by SBOX, ROUNDF and ZEROIZE;
CTR only by CTR and CTRINC; RK and RKINFO only by the KEYGEN forms and ZEROIZE. -/
def Obligations.CompletionWritesOnlyItsRegisters : Prop :=
  ∀ (i : Instr) (s t : State), exec i s = .next t →
    t.sbox = s.sbox ∧ t.ie = s.ie ∧ t.cmd = s.cmd ∧
    (i ≠ .zeroize → t.din = s.din ∧ t.mkey = s.mkey ∧ t.mkLen = s.mkLen) ∧
    (t.dout ≠ s.dout → (∃ k, i = .fenc k) ∨ (∃ k, i = .fdec k) ∨ (∃ n, i = .ede n) ∨ (∃ k n, i = .ctr k n) ∨
      i = .zeroize) ∧
    (t.res ≠ s.res → (∃ n v, i = .sbox n v) ∨ (∃ k r, i = .roundf k r) ∨ i = .zeroize) ∧
    (t.ctr ≠ s.ctr → (∃ k n, i = .ctr k n) ∨ i = .ctrinc) ∧
    (t.rk ≠ s.rk ∨ t.rkinfo ≠ s.rkinfo → isKeygen i = true ∨ i = .zeroize)

/-- R209: an error blocks nothing. Whatever ERR and ERRCODE hold, a command completes with the same results and the same
BUSY and DONE, and a CMD write issues. -/
def Obligations.ErrorsBlockNothing : Prop :=
  ∀ (s : State) (e : Bool) (c : ErrCode),
    (∀ (i : Instr) (t : State), exec i s = .next t →
      ∃ t', exec i { s with status := { s.status with err := e, errcode := c } } = .next t' ∧
        { t' with status := t.status } = t ∧ t'.status.busy = t.status.busy ∧ t'.status.done = t.status.done) ∧
    (s.status.busy = false → ∀ (p : Params) (w : Word),
      hostWrite p .cmd w { s with status := { s.status with err := e, errcode := c } } =
        { s with cmd := w, pending := some w, status := { busy := true, done := false, err := e, errcode := c } })

/-- R113's remark: on a key of 24 bytes or more `keygen 3, 8` does what `keygen.ede` does; on a shorter one they differ only
in the error code. -/
def Obligations.GenericKeygenAgreesWithEde : Prop :=
  ∀ s : State,
    (24 ≤ s.mkLen.toNat → exec (.keygen 3 8) s = exec .keygenEde s) ∧
    (s.mkLen.toNat < 24 → ∀ t u, exec (.keygen 3 8) s = .next t → exec .keygenEde s = .next u →
      t.status.errcode = .rkCount ∧ u.status.errcode = .keyLen ∧
      { t with status := { t.status with errcode := .keyLen } } = u)

/-! ### The datapath -/

/-- R110, for a key buffer of any number of registers and a core of any number of slots (R7): KSLICE answers nothing on a
shortfall, and else rc slices, slice i being bytes i*bs .. i*bs+bs-1 of the key and then 0x00; a schedule holds them in slots
0..rc-1, and 0x00 x 8 in the other slots (R111). -/
def Obligations.KsliceSlicesTheKey : Prop :=
  ∀ (slots : Nat) (mk : List Word) (len rc bs : Nat),
    (len < rc * bs → kslice mk len rc bs = none) ∧
    (rc * bs ≤ len → ∃ sl, kslice mk len rc bs = some sl ∧ sl.length = rc ∧
      (∀ (i j : Nat) (b : Block), sl[i]? = some b → j < 8 →
        byteAt b j = if j < bs then keyByte mk (i * bs + j) else 0x00#8) ∧
      (scheduleSlots slots sl).length = slots ∧
      ∀ k, k < slots → (scheduleSlots slots sl)[k]? = some ((sl[k]?).getD ⟨0#32, 0#32⟩))

/-- R133: output nibble i of F, for i in 0..3, depends only on nibble i of x, and only through table i, under every
RF_HIGH; under ZERO bits 31:16 are 0, so a Feistel round changes only bits 15:0 of the other half. -/
def Obligations.RoundFunctionIsNibbleLocal : Prop :=
  (∀ (rf rf' : RfHigh) (sb sb' : Vector SboxTable 4) (h h' : Half) (k k' : Key4) (i : Fin 4),
    nibbleAt (roundInput h k) i.val = nibbleAt (roundInput h' k') i.val → sb[i] = sb'[i] →
    nibbleAt (roundFn rf sb h k) i.val = nibbleAt (roundFn rf' sb' h' k') i.val) ∧
  (∀ (sb : Vector SboxTable 4) (h : Half) (k : Key4), roundFn .zero sb h k >>> 16 = 0#32) ∧
  ∀ (p : Params) (sb : Vector SboxTable 4) (k8 : Block) (h : Halves) (r : Fin 16), p.rfHigh = .zero →
    (encRound p sb k8 h r).right >>> 16 = h.left >>> 16 ∧ (encRound p sb k8 h r).left = h.right ∧
    (decRound p sb k8 h r).left >>> 16 = h.right >>> 16 ∧ (decRound p sb k8 h r).right = h.left

/-- R145, for every S-box contents and every RF_HIGH, under FIRST4: (a) ENC is an involution; (b) DEC(k, b) =
ENC(k, swap(b)); (c) DEC(k, swap(ENC(k, b))) = b; (d) DEC(k, ENC(k, b)) = ENC(k, swap(ENC(k, b))). -/
def Obligations.EncryptAndDecryptLaws : Prop :=
  ∀ (rf : RfHigh) (sb : Vector SboxTable 4) (k b : Block),
    let p : Params := { hardware with rfHigh := rf }
    let swap : Block → Block := fun b => ⟨b.lo, b.hi⟩
    encBlock p sb k (encBlock p sb k b) = b ∧
    decBlock p sb k b = encBlock p sb k (swap b) ∧
    decBlock p sb k (swap (encBlock p sb k b)) = b ∧
    decBlock p sb k (encBlock p sb k b) = encBlock p sb k (swap (encBlock p sb k b))

/-- R140, R141, R147, under every value of the parameters: ENC takes the key bytes RK4_SEL(k, r) of rounds r = 0..15 in
ascending order, DEC those of r = 15..0 in descending order. -/
def Obligations.RoundsTakeTheirOwnKeyBytes : Prop :=
  ∀ (p : Params) (sb : Vector SboxTable 4) (k b : Block),
    IsEnc p sb k b (encBlock p sb k b) ∧ IsDec p sb k b (decBlock p sb k b)

/-- R144: on this hardware ENC and DEC are not mutual inverses; its example under TS_A. -/
def Obligations.EncryptAndDecryptAreNotInverses : Prop :=
  (¬ ∀ (sb : Vector SboxTable 4) (k b : Block), decBlock hardware sb k (encBlock hardware sb k b) = b) ∧
    ∃ c, IsEnc hardware tablesA ⟨0x01234567#32, 0x89ABCDEF#32⟩ ⟨0#32, 0#32⟩ c ∧
      IsDec hardware tablesA ⟨0x01234567#32, 0x89ABCDEF#32⟩ c ⟨0x00000060#32, 0x000009B8#32⟩

/-- R146, under RF_HIGH = ZERO, for every key selection: bits 31:16 of the halves swap places in each round and are back
after 16 rounds; ENC's output bytes 0..1 are input bytes 4..5 and its bytes 4..5 are input bytes 0..1; DEC keeps bytes 0..1
and 4..5 in place. -/
def Obligations.UpperHalfwordsOnlyChangePlaces : Prop :=
  ∀ (p : Params) (sb : Vector SboxTable 4) (k : Block), p.rfHigh = .zero →
    (∀ (h : Halves) (r : Fin 16),
      ((encRound p sb k h r).left >>> 16 = h.right >>> 16 ∧ (encRound p sb k h r).right >>> 16 = h.left >>> 16) ∧
      ((decRound p sb k h r).left >>> 16 = h.right >>> 16 ∧ (decRound p sb k h r).right >>> 16 = h.left >>> 16)) ∧
    (∀ h : Halves, (roundIndexes.foldl (encRound p sb k) h).left >>> 16 = h.left >>> 16 ∧
      (roundIndexes.foldl (encRound p sb k) h).right >>> 16 = h.right >>> 16) ∧
    ∀ (b : Block) (j : Nat), j < 2 →
      byteAt (encBlock p sb k b) j = byteAt b (j + 4) ∧
      byteAt (encBlock p sb k b) (j + 4) = byteAt b j ∧
      byteAt (decBlock p sb k b) j = byteAt b j ∧
      byteAt (decBlock p sb k b) (j + 4) = byteAt b (j + 4)

/-- R164, as the EDE command shows it: with valid slots, DOUT bytes 0, 1, 4 and 5 within the chunk are those of DIN, so a
chunk of 1 or 2 bytes comes back unchanged, for every table and key. -/
def Obligations.EdePassesDiffusionLightBytes : Prop :=
  ∀ (s : State) (len : Nat), 1 ≤ len → len ≤ 8 → valid s 0 → valid s 1 → valid s 2 →
    ∃ t, exec (.ede len) s = .next t ∧
      (∀ j, j < len → (j = 0 ∨ j = 1 ∨ j = 4 ∨ j = 5) → byteAt t.dout j = byteAt s.din j) ∧
      (len ≤ 2 → ∀ j, j < len → byteAt t.dout j = byteAt s.din j)

/-- R176, as the CTR command shows it: with a valid slot, payload bytes 0..1 are XORed with CTR bytes 4..5 and payload bytes
4..5 with CTR bytes 0..1, whatever the key and the tables. -/
def Obligations.CtrDiffusionLightKeystream : Prop :=
  ∀ (s : State) (k : Fin 4) (len : Nat), 1 ≤ len → len ≤ 8 → valid s k →
    ∃ t, exec (.ctr k len) s = .next t ∧
      ∀ j, j < 2 →
        (j < len → byteAt t.dout j = byteAt s.din j ^^^ byteAt s.ctr (j + 4)) ∧
        (j + 4 < len → byteAt t.dout (j + 4) = byteAt s.din (j + 4) ^^^ byteAt s.ctr j)

/-- R170: INC64 adds one modulo 2^64, byte j changes exactly when every later byte is 0xFF, and no flag records the carry
out of byte 0: the command that is INC64 alone completes like any other. -/
def Obligations.CounterIncrementCarries : Prop :=
  (∀ s : State, exec .ctrinc s = .next (done { s with ctr := inc64 s.ctr })) ∧
  ∀ c : Block, number (inc64 c) = (number c + 1) % 2 ^ 64 ∧
    ∀ j, j < 8 → byteAt (inc64 c) j =
      if ∀ i, i < 8 → j < i → byteAt c i = 0xFF#8 then byteAt c j + 1#8 else byteAt c j

/-- R174: a payload's CTR commands, chunk by chunk under one valid slot, under every value of the parameters: chunk m is
XORed with ENC of the counter c0 + m, and after the payload CTR is c0 plus the number of chunks, modulo 2^64. -/
def Obligations.CtrPayloadUsesSuccessiveCounters : Prop :=
  ∀ (p : Params) (k : Fin 4) (chunks : List (Block × Nat)) (s : State), valid s k → (∀ c ∈ chunks, 1 ≤ c.2 ∧ c.2 ≤ 8) →
    ∃ outs u, ctrChunks p k chunks s = some (outs, u) ∧ outs.length = chunks.length ∧
      number u.ctr = (number s.ctr + chunks.length) % 2 ^ 64 ∧
      ∀ (m : Nat) (d o : Block) (n : Nat), chunks[m]? = some (d, n) → outs[m]? = some o →
        ∃ c ks, number c = (number s.ctr + m) % 2 ^ 64 ∧ IsEnc p s.sbox (slot s k.val) c ks ∧
          ∀ j, j < 8 → byteAt o j = if j < n then byteAt d j ^^^ byteAt ks j else 0x00#8

/-- R175, for every S-box contents, every RF_HIGH and every RK4_SEL: processing a payload, then setting CTR back and
processing the result with the same slot, gives the payload back. -/
def Obligations.CtrPayloadIsSelfInverse : Prop :=
  ∀ (p : Params) (k : Fin 4) (chunks : List (Block × Nat)) (s : State), valid s k → (∀ c ∈ chunks, 1 ≤ c.2 ∧ c.2 ≤ 8) →
    ∃ outs u back v, ctrChunks p k chunks s = some (outs, u) ∧
      ctrChunks p k (outs.zip (chunks.map Prod.snd)) { u with ctr := s.ctr } = some (back, v) ∧
      back.length = chunks.length ∧
      ∀ (m : Nat) (d b : Block) (n : Nat), chunks[m]? = some (d, n) → back[m]? = some b →
        ∀ j, j < n → byteAt b j = byteAt d j

/-- R161, R171: EDE and CTR do not read DIN bytes len..7. -/
def Obligations.ChunkCommandsReadOnlyTheChunk : Prop :=
  ∀ (s : State) (d : Block) (len : Nat), 1 ≤ len → len ≤ 8 → (∀ j, j < len → byteAt d j = byteAt s.din j) →
    ∃ t, exec (.ede len) s = .next t ∧ exec (.ede len) { s with din := d } = .next { t with din := d } ∧
      ∀ k : Fin 4, ∃ u, exec (.ctr k len) s = .next u ∧
        exec (.ctr k len) { s with din := d } = .next { u with din := d }

/-- R31, I17: no command reads a key byte at or beyond LEN; ZEROIZE aside, a command's completion is the same for two master
keys that agree below LEN. -/
def Obligations.KeyBytesPastLenAreNeverRead : Prop :=
  ∀ (i : Instr) (s : State) (mk : List Word), i.wellFormed = true → i ≠ .zeroize →
    (∀ n, n < s.mkLen.toNat → n < 32 → keyByte mk n = keyByte s.mkey n) →
    ∃ t, exec i s = .next t ∧ exec i { s with mkey := mk } = .next { t with mkey := mk }

/-! ### The register window -/

/-- R63: a misaligned access, or a write without all strobes, gets the error response and nothing else, a read of this kind
returning 0; an aligned read ignores the strobes. -/
def Obligations.BadAccessGetsOnlyBusErr : Prop :=
  (∀ (s : State) (a : BusAccess) (rest : List Turn), s.turns = Turn.access a :: rest → malformed a →
    ∃ d, (a.write = false → d = some 0#32) ∧
      step s = .next { s with turns := rest, lastResp := some { rdata := d, err := true } }) ∧
  ∀ (s : State) (a : BusAccess) (rest : List Turn) (m : BitVec 4), a.write = false →
    s.turns = Turn.access a :: rest →
    step { s with turns := Turn.access { a with wstrb := m } :: rest } = step s

/-- R62: a read answers the register's value and changes no state of the core. -/
def Obligations.ReadsHaveNoSideEffect : Prop :=
  ∀ (s : State) (a : BusAccess) (rest : List Turn) (r : Reg), s.turns = Turn.access a :: rest → reads a r →
    ∃ t, step s = .next t ∧ t = { s with turns := rest, lastResp := answered (readReg r s) } ∧
      ∀ r', readReg r' t = readReg r' s

/-- R205: while BUSY = 1 a write to any offset but STATUS is dropped with BUSY_WRITE and a STATUS write is performed; a
bus-error access gets the bus error and nothing else; reads are as ever. -/
def Obligations.WriteWhileBusyIsDropped : Prop :=
  ∀ (s : State) (a : BusAccess) (rest : List Turn), s.turns = Turn.access a :: rest → s.status.busy = true →
    (∀ r v, writes a r v → r ≠ .status → ∃ t, step s = .next t ∧ t =
      { s with
        turns := rest
        lastResp := t.lastResp
        status := { busy := true, done := s.status.done, err := true, errcode := .busyWrite } }) ∧
    (∀ v, writes a .status v → ∃ t, step s = .next t ∧ t =
      { s with
        turns := rest
        lastResp := t.lastResp
        status :=
          { busy := true
            done := s.status.done && !(v.getLsbD 1)
            err := s.status.err && !(v.getLsbD 2)
            errcode := if v.getLsbD 2 = true then .noError else s.status.errcode } }) ∧
    (malformed a → ∃ t, step s = .next t ∧ t.lastResp.map BusResponse.err = some true ∧
      t = { s with turns := rest, lastResp := t.lastResp }) ∧
    (∀ r, reads a r → step s = .next { s with turns := rest, lastResp := answered (readReg r s) })

/-- R25, R204: a CMD write while BUSY = 0 stores the word, sets the latch and BUSY, clears DONE and keeps ERR and ERRCODE. -/
def Obligations.CmdWriteIssues : Prop :=
  ∀ (s : State) (a : BusAccess) (rest : List Turn) (w : Word), s.turns = Turn.access a :: rest →
    s.status.busy = false → writes a .cmd w → step s = .next
      { s with
        turns := rest
        lastResp := wrote
        cmd := w
        pending := some w
        status := { busy := true, done := false, err := s.status.err, errcode := s.status.errcode } }

/-- R23, R208: a STATUS write, at any time, clears DONE where bit 1 is 1, clears ERR and ERRCODE together where bit 2 is 1, and
ignores its other bits. -/
def Obligations.StatusWriteClearsWhatItSelects : Prop :=
  ∀ (s : State) (a : BusAccess) (rest : List Turn) (v : Word), s.turns = Turn.access a :: rest →
    writes a .status v → step s = .next
      { s with
        turns := rest
        lastResp := wrote
        status :=
          { busy := s.status.busy
            done := if v.getLsbD 1 = true then false else s.status.done
            err := if v.getLsbD 2 = true then false else s.status.err
            errcode := if v.getLsbD 2 = true then .noError else s.status.errcode } }

/-- The window's storage law while BUSY = 0 (R20 to R37), STATUS and CMD aside, under every value of the parameters (R7): a write
to a register is read back as the register's access says, and every other register reads as before; a write to a read-only
register or a reserved offset changes nothing. MK_LEN is held to the capacity of the key buffer (R30), and a word is kept in the
registers that the buffer has. -/
def Obligations.WriteThenReadOfTheWindow : Prop :=
  ∀ (p : Params) (s : State) (r r' : Reg) (v : Word), s.status.busy = false → r ≠ .status → r ≠ .cmd →
    readReg r' (hostWrite p r v s) =
      if r' = r then afterWrite p.mkCap s.mkey.length r v (readReg r s) else readReg r' s

/-- What each register but STATUS shows in every state (R21, R22, R25 to R31, R33, R34, R36): a block register's _HI is
bytes 0..3 and its _LO bytes 4..7 of the block, MKw is bytes 4w..4w+3 of the key, SBOXt_LO is entries 0..7 and SBOXt_HI
entries 8..15 of table t. -/
def Obligations.RegistersShowTheirFields : Prop :=
  ∀ s : State,
    let shows (hi lo : Reg) (b : Block) : Prop := readReg hi s = b.hi ∧ readReg lo s = b.lo ∧
      ∀ j, j < 4 → (readReg hi s >>> (24 - 8 * j)).setWidth 8 = byteAt b j ∧
        (readReg lo s >>> (24 - 8 * j)).setWidth 8 = byteAt b (j + 4)
    readReg .id s = 0x53425831#32 ∧ (readReg .ctrl s).getLsbD 0 = s.ie ∧ readReg .cmd s = s.cmd ∧ readReg .res s = s.res ∧
    ((readReg .rkinfo s).extractLsb' 0 4 = s.rkinfo.valid ∧ (readReg .rkinfo s).extractLsb' 8 4 = s.rkinfo.bs ∧
      (readReg .rkinfo s).extractLsb' 16 3 = s.rkinfo.rc) ∧
    shows .dinHi .dinLo s.din ∧ shows .doutHi .doutLo s.dout ∧ shows .ctrHi .ctrLo s.ctr ∧
    (∀ k : Fin 4, shows (.rkHi k) (.rkLo k) (slot s k.val)) ∧
    (readReg .mkLen s).toNat = s.mkLen.toNat ∧
    (∀ w : Fin 8, readReg (.mk w) s = (s.mkey[w.val]?).getD 0#32 ∧
      ∀ j, j < 4 → (readReg (.mk w) s >>> (24 - 8 * j)).setWidth 8 = keyByte s.mkey (4 * w.val + j)) ∧
    ∀ t : Fin 4, readReg (.sboxLo t) s = s.sbox[t].lo ∧ readReg (.sboxHi t) s = s.sbox[t].hi ∧
      ∀ j : Fin 8, nibbleAt (readReg (.sboxLo t) s) j.val = entryAt s.sbox[t] (BitVec.ofNat 4 j.val) ∧
        nibbleAt (readReg (.sboxHi t) s) j.val = entryAt s.sbox[t] (BitVec.ofNat 4 (8 + j.val))

/-- What an accepted write stores, BUSY = 0 (R22, R26, R29 to R31, R36): each writable register, in the field it shows; a
read-only register and a reserved offset store nothing (R21, R27, R28, R33 to R35). And the machine's step at a full write makes
that write and answers without an error (R62), on this hardware and under every value of the parameters (R7). The response of a
write carries no read data (log 6). -/
def Obligations.WritesStoreTheirFields : Prop :=
  (∀ (p : Params) (s : State) (v : Word), s.status.busy = false →
    hostWrite p .ctrl v s = { s with ie := v.getLsbD 0 } ∧
    hostWrite p .dinHi v s = { s with din := ⟨v, s.din.lo⟩ } ∧
    hostWrite p .dinLo v s = { s with din := ⟨s.din.hi, v⟩ } ∧
    hostWrite p .ctrHi v s = { s with ctr := ⟨v, s.ctr.lo⟩ } ∧
    hostWrite p .ctrLo v s = { s with ctr := ⟨s.ctr.hi, v⟩ } ∧
    (∃ n : BitVec 6, n.toNat = min p.mkCap (v &&& 0x3F#32).toNat ∧
      hostWrite p .mkLen v s = { s with mkLen := n }) ∧
    (∀ w : Fin 8, ∃ ws, hostWrite p (.mk w) v s = { s with mkey := ws } ∧ ws.length = s.mkey.length ∧
      ∀ n, n < s.mkey.length → ws[n]? = if n = w.val then some v else s.mkey[n]?) ∧
    (∀ t : Fin 4, hostWrite p (.sboxLo t) v s = { s with sbox := s.sbox.set t ⟨v, s.sbox[t].hi⟩ } ∧
      hostWrite p (.sboxHi t) v s = { s with sbox := s.sbox.set t ⟨s.sbox[t].lo, v⟩ }) ∧
    ∀ r : Reg, r = .id ∨ r = .doutHi ∨ r = .doutLo ∨ r = .res ∨ r = .rkinfo ∨ r = .reserved ∨
      (∃ k, r = .rkHi k ∨ r = .rkLo k) → hostWrite p r v s = s) ∧
  ∀ (s : State) (a : BusAccess) (rest : List Turn) (r : Reg) (v : Word), s.turns = Turn.access a :: rest →
    s.status.busy = false → writes a r v → r ≠ .status →
    step s = .next { hostWrite hardware r v { s with turns := rest } with lastResp := wrote } ∧
    ∀ p : Params, stepWith p s = .next { hostWrite p r v { s with turns := rest } with lastResp := wrote }

/-- The offsets of R20: every register is at its offset; the reserved offsets are 0x74..0x7F and 0xA0..0xFF. -/
def Obligations.RegisterMapOffsets : Prop :=
  (offsetOf .id = 0x00#8 ∧ offsetOf .ctrl = 0x04#8 ∧ offsetOf .status = 0x08#8 ∧ offsetOf .cmd = 0x0C#8 ∧
    offsetOf .dinHi = 0x10#8 ∧ offsetOf .dinLo = 0x14#8 ∧ offsetOf .doutHi = 0x18#8 ∧ offsetOf .doutLo = 0x1C#8 ∧
    offsetOf .res = 0x20#8 ∧ offsetOf .ctrHi = 0x24#8 ∧ offsetOf .ctrLo = 0x28#8 ∧ offsetOf .mkLen = 0x2C#8 ∧
    offsetOf .rkinfo = 0x70#8) ∧
    (∀ r : Reg, regAt (offsetOf r) = r) ∧
    (∀ off : BitVec 8, regAt off = .reserved ↔
      (0x74 ≤ off.toNat ∧ off.toNat < 0x80) ∨ 0xA0 ≤ off.toNat) ∧
    (∀ w : Fin 8, (offsetOf (.mk w)).toNat = 0x30 + 4 * w.val) ∧
    ∀ k : Fin 4, (offsetOf (.rkHi k)).toNat = 0x50 + 8 * k.val ∧ (offsetOf (.rkLo k)).toNat = 0x54 + 8 * k.val ∧
      (offsetOf (.sboxLo k)).toNat = 0x80 + 8 * k.val ∧ (offsetOf (.sboxHi k)).toNat = 0x84 + 8 * k.val

/-- R35, R22, R23, R30, R34: reserved offsets and the reserved bits of CTRL, STATUS, MK_LEN and RKINFO read 0 in every state,
and ID reads its constant (R21). -/
def Obligations.ReservedBitsReadZero : Prop :=
  ∀ s : State,
    readReg .reserved s = 0#32 ∧ readReg .id s = 0x53425831#32 ∧
    readReg .ctrl s &&& 0xFFFFFFFE#32 = 0#32 ∧ readReg .status s &&& 0xFFFFFF08#32 = 0#32 ∧
    readReg .mkLen s &&& 0xFFFFFFC0#32 = 0#32 ∧ readReg .rkinfo s &&& 0xFFF8F0F0#32 = 0#32

/-- The fields of STATUS lie where R23 puts them, and ERRCODE takes the codes of R200. -/
def Obligations.StatusFieldsLieWhereStated : Prop :=
  ∀ s : State,
    (readReg .status s).getLsbD 0 = s.status.busy ∧ (readReg .status s).getLsbD 1 = s.status.done ∧
    (readReg .status s).getLsbD 2 = s.status.err ∧
    (readReg .status s).extractLsb' 4 4 =
      (match s.status.errcode with
        | .noError => 0#4 | .illegal => 1#4 | .keyLen => 2#4 | .rkCount => 3#4 | .noKey => 4#4 | .busyWrite => 5#4)

/-- R210, R211: `irq` is CTRL.IE and STATUS.DONE; it is 1 after a completion with IE = 1, whether or not the command succeeded; a
W1C of DONE, a CTRL write with IE = 0 and an issue each make it 0; setting IE while DONE = 1 makes it 1; a dropped write leaves
it. That the completion is the step when no turn is scheduled is the model's choice (log 1). -/
def Obligations.InterruptFollowsDone : Prop :=
  ∀ s : State,
    (irq s = true ↔ s.ie = true ∧ s.status.done = true) ∧
    (s.pending.isSome = true → (s.turns = [] ∨ ∃ rest, s.turns = Turn.complete :: rest) →
      ∃ t, step s = .next t ∧ irq t = s.ie) ∧
    (∀ (a : BusAccess) (rest : List Turn), s.turns = Turn.access a :: rest →
      (∀ v, writes a .status v → v.getLsbD 1 = true → ∃ t, step s = .next t ∧ irq t = false) ∧
      (∀ v, writes a .ctrl v → s.status.busy = false →
        ∃ t, step s = .next t ∧ irq t = (v.getLsbD 0 && s.status.done)) ∧
      (∀ w, writes a .cmd w → s.status.busy = false → ∃ t, step s = .next t ∧ irq t = false) ∧
      (∀ r v, writes a r v → r ≠ .status → s.status.busy = true → ∃ t, step s = .next t ∧ irq t = irq s))

/-- R38, R68: until the completion, no host access changes the pending command, its operands or its result registers: only STATUS
may change, and BUSY stays 1. -/
def Obligations.OperandsAndResultsStayWhilePending : Prop :=
  ∀ (s : State) (a : BusAccess) (rest : List Turn), s.turns = Turn.access a :: rest → s.status.busy = true →
    ∃ t, step s = .next t ∧ t.status.busy = true ∧
      t = { s with status := t.status, turns := rest, lastResp := t.lastResp }

/-! ### Reset and invariants -/

/-- R20, R230: what every register reads after reset, and `irq` = 0; the S-box registers hold `SBOX_INIT`. On this hardware, and
under every value of the parameters (R7). -/
def Obligations.ResetValuesThroughTheWindow : Prop :=
  let resetTo (init : Fin 4 → Fin 16 → Nibble) (s : State) : Prop :=
    (∀ r : Reg, (∀ t, r ≠ .sboxLo t) → (∀ t, r ≠ .sboxHi t) → readReg r s = resetColumn r) ∧
    (∀ (t : Fin 4) (v : Fin 16), entryAt s.sbox[t] (BitVec.ofFin v) = init t v) ∧ s.pending = none ∧ irq s = false
  resetTo Config.sboxInit State.reset ∧ ∀ p : Params, resetTo p.sboxInit (resetState p)

/-- R230: a reset edge, from any state, puts every register at its reset value and abandons a pending command; a read made then
returns 0. What the host holds, the turns to come and its latest response, is the model's own (log 5). -/
def Obligations.ResetEdgeRestoresReset : Prop :=
  ∀ (s : State) (a : Option BusAccess) (rest : List Turn), s.turns = Turn.reset a :: rest →
    ∃ t, step s = .next t ∧ irq t = false ∧
      t = { State.reset with turns := rest, lastResp := t.lastResp, freeDraws := t.freeDraws } ∧
      (∀ acc, a = some acc → acc.write = false → t.lastResp.map BusResponse.rdata = some (some 0#32)) ∧
      (a = none → t.lastResp = s.lastResp)

/-- Reset leaves a state that keeps the spec's promises (Safety.lean), on this hardware and under every value of the parameters
(R7). -/
def Obligations.ResetIsConsistent : Prop :=
  Consistent hardware State.reset ∧ ∀ p : Params, Consistent p (resetState p)

/-- What RK_SLOTS and MK_CAP bound (R7), in the model's own reading of a core with fewer slots or a shorter buffer than the register
map lays out (log 21): a command that reads a slot past the last raises NO_KEY, such a slot's registers read 0, and an MK register
past the buffer reads 0 and ignores writes. -/
def Obligations.SlotsAndKeyRegistersPastTheLastAreAbsent : Prop :=
  ∀ (p : Params) (s : State), Consistent p s →
    (∀ (i : Instr) (k : Nat), k ∈ slotsRead i → p.rkSlots ≤ k → execWith p i s = .next (failed .noKey s)) ∧
    (∀ k : Fin 4, p.rkSlots ≤ k.val → readReg (.rkHi k) s = 0#32 ∧ readReg (.rkLo k) s = 0#32) ∧
    ∀ w : Fin 8, p.mkCap ≤ 4 * w.val →
      readReg (.mk w) s = 0#32 ∧ ∀ v, s.status.busy = false → hostWrite p (.mk w) v s = s

/-- Every step keeps them: BUSY exactly while a command is pending (R38), ERR with ERRCODE (R24), a key buffer of MK_CAP bytes and
RK_SLOTS slots (R31, R33), LEN at most MK_CAP (R30), and the schedule as one KEYGEN leaves it (R34, R110 to R114). On this hardware,
where the two are 32 and 4, and under every value of the parameters (R7). -/
def Obligations.EveryStepKeepsConsistent : Prop :=
  (∀ s t : State, Consistent hardware s → step s = .next t → Consistent hardware t) ∧
    ∀ (p : Params) (s t : State), Consistent p s → stepWith p s = .next t → Consistent p t

/-- R24: every write of ERR and ERRCODE sets the two together, so ERR is 1 exactly when ERRCODE is nonzero, from reset on;
and, reset aside, the two are written only by a STATUS write with bit 2 (R23), a completion (R201) and a dropped write
(R205). -/
def Obligations.ErrAndErrcodeMoveTogether : Prop :=
  (State.reset.status.err = false ∧ State.reset.status.errcode = .noError) ∧
  ∀ s t : State, step s = .next t →
    ((t.status.err = s.status.err ∧ t.status.errcode = s.status.errcode) ∨
      (t.status.err = false ∧ t.status.errcode = .noError) ∨
      (t.status.err = true ∧ t.status.errcode ≠ .noError)) ∧
    ((s.status.err = false ↔ s.status.errcode = .noError) → (t.status.err = false ↔ t.status.errcode = .noError)) ∧
    (t.status.err ≠ s.status.err ∨ t.status.errcode ≠ s.status.errcode →
      (∃ a rest, s.turns = Turn.reset a :: rest) ∨
      (s.pending.isSome = true ∧ t.status.err = true ∧ coreMoves s) ∨
      ∃ a rest, s.turns = Turn.access a :: rest ∧
        ((∃ v, writes a .status v ∧ v.getLsbD 2 = true) ∨
          (s.status.busy = true ∧ t.status.errcode = .busyWrite ∧ ∃ r v, r ≠ .status ∧ writes a r v)))

/-- R32: a write to MK or MK_LEN does not change the slots; reset aside, only the completion of a KEYGEN form or of ZEROIZE
writes RK. -/
def Obligations.OnlyKeygenAndZeroizeWriteTheSlots : Prop :=
  (∀ (s : State) (a : BusAccess) (rest : List Turn) (v : Word), s.turns = Turn.access a :: rest →
    (writes a .mkLen v ∨ ∃ w, writes a (.mk w) v) → ∃ t, step s = .next t ∧ t.rk = s.rk) ∧
  ∀ s t : State, step s = .next t → t.rk ≠ s.rk →
    (∃ a rest, s.turns = Turn.reset a :: rest) ∨
    ∃ w i, s.pending = some w ∧ decode w = some i ∧ (isKeygen i = true ∨ i = .zeroize) ∧ coreMoves s
end

