-- ==== Sys2Proof/Laws/Sizes.lean ====
section
/-! SUPPORT. The named sizes of 00_scope.md R6 and R7, and this hardware's parameters field by field, as numerals, so that simp brings
them to one normal form and arithmetic sees them. -/

namespace Sys2Proof

@[simp] theorem nibBits_eq : nibBits = 4 := rfl
@[simp] theorem sbEntries_eq : sbEntries = 16 := rfl
@[simp] theorem sbTables_eq : sbTables = 4 := rfl
@[simp] theorem halfBits_eq : halfBits = 32 := rfl
@[simp] theorem rounds_eq : rounds = 16 := rfl
@[simp] theorem rk4Bytes_eq : rk4Bytes = 4 := rfl
@[simp] theorem rkSlots_eq : rkSlots = 4 := rfl
@[simp] theorem mkCap_eq : mkCap = 32 := rfl
@[simp] theorem slotCodes_eq : slotCodes = 4 := rfl
@[simp] theorem mkRegs_eq : Machine.mkRegs = 8 := rfl
@[simp] theorem rkRegs_eq : Machine.rkRegs = 4 := rfl
@[simp] theorem blkBytes_eq : Machine.blkBytes = 8 := rfl

namespace Machine

@[simp] theorem hwParams_sboxInit : hwParams.sboxInit = Config.sboxInit := rfl
@[simp] theorem hwParams_rfHigh : hwParams.rfHigh = .zero := rfl
@[simp] theorem hwParams_rk4Sel : hwParams.rk4Sel = first4 := rfl
@[simp] theorem hwParams_mkCap : hwParams.mkCap = 32 := rfl
@[simp] theorem hwParams_rkSlots : hwParams.rkSlots = 4 := rfl
@[simp] theorem hwParams_keyRegs : hwParams.keyRegs = 8 := rfl

end Machine

theorem nibble_toNat_lt (v : Nibble) : v.toNat < 16 := v.isLt

end Sys2Proof
end

