-- ==== Sys2Proof/Laws/State.lean ====
section
/-! SUPPORT. One lemma per field per named update of the state: what each update leaves in each field. The reset state's fields
stand last. -/

namespace Sys2Proof.Machine

@[simp] theorem issue_ie (w : Word) (s : State) : (issue w s).ie = s.ie := rfl
@[simp] theorem issue_status (w : Word) (s : State) : (issue w s).status = statusIssued s.status := rfl
@[simp] theorem issue_cmd (w : Word) (s : State) : (issue w s).cmd = w := rfl
@[simp] theorem issue_din (w : Word) (s : State) : (issue w s).din = s.din := rfl
@[simp] theorem issue_dout (w : Word) (s : State) : (issue w s).dout = s.dout := rfl
@[simp] theorem issue_res (w : Word) (s : State) : (issue w s).res = s.res := rfl
@[simp] theorem issue_ctr (w : Word) (s : State) : (issue w s).ctr = s.ctr := rfl
@[simp] theorem issue_mkLen (w : Word) (s : State) : (issue w s).mkLen = s.mkLen := rfl
@[simp] theorem issue_mkey (w : Word) (s : State) : (issue w s).mkey = s.mkey := rfl
@[simp] theorem issue_rk (w : Word) (s : State) : (issue w s).rk = s.rk := rfl
@[simp] theorem issue_rkinfo (w : Word) (s : State) : (issue w s).rkinfo = s.rkinfo := rfl
@[simp] theorem issue_sbox (w : Word) (s : State) : (issue w s).sbox = s.sbox := rfl
@[simp] theorem issue_pending (w : Word) (s : State) : (issue w s).pending = some w := rfl
@[simp] theorem issue_turns (w : Word) (s : State) : (issue w s).turns = s.turns := rfl
@[simp] theorem issue_lastResp (w : Word) (s : State) : (issue w s).lastResp = s.lastResp := rfl
@[simp] theorem issue_freeDraws (w : Word) (s : State) : (issue w s).freeDraws = s.freeDraws := rfl

@[simp] theorem completeOk_ie (s : State) : (completeOk s).ie = s.ie := rfl
@[simp] theorem completeOk_status (s : State) : (completeOk s).status = statusCompleted s.status := rfl
@[simp] theorem completeOk_cmd (s : State) : (completeOk s).cmd = s.cmd := rfl
@[simp] theorem completeOk_din (s : State) : (completeOk s).din = s.din := rfl
@[simp] theorem completeOk_dout (s : State) : (completeOk s).dout = s.dout := rfl
@[simp] theorem completeOk_res (s : State) : (completeOk s).res = s.res := rfl
@[simp] theorem completeOk_ctr (s : State) : (completeOk s).ctr = s.ctr := rfl
@[simp] theorem completeOk_mkLen (s : State) : (completeOk s).mkLen = s.mkLen := rfl
@[simp] theorem completeOk_mkey (s : State) : (completeOk s).mkey = s.mkey := rfl
@[simp] theorem completeOk_rk (s : State) : (completeOk s).rk = s.rk := rfl
@[simp] theorem completeOk_rkinfo (s : State) : (completeOk s).rkinfo = s.rkinfo := rfl
@[simp] theorem completeOk_sbox (s : State) : (completeOk s).sbox = s.sbox := rfl
@[simp] theorem completeOk_pending (s : State) : (completeOk s).pending = none := rfl
@[simp] theorem completeOk_turns (s : State) : (completeOk s).turns = s.turns := rfl
@[simp] theorem completeOk_lastResp (s : State) : (completeOk s).lastResp = s.lastResp := rfl
@[simp] theorem completeOk_freeDraws (s : State) : (completeOk s).freeDraws = s.freeDraws := rfl

@[simp] theorem raiseCmdError_ie (c : ErrCode) (s : State) : (raiseCmdError c s).ie = s.ie := rfl
@[simp] theorem raiseCmdError_status (c : ErrCode) (s : State) : (raiseCmdError c s).status = statusRaised c := rfl
@[simp] theorem raiseCmdError_cmd (c : ErrCode) (s : State) : (raiseCmdError c s).cmd = s.cmd := rfl
@[simp] theorem raiseCmdError_din (c : ErrCode) (s : State) : (raiseCmdError c s).din = s.din := rfl
@[simp] theorem raiseCmdError_dout (c : ErrCode) (s : State) : (raiseCmdError c s).dout = s.dout := rfl
@[simp] theorem raiseCmdError_res (c : ErrCode) (s : State) : (raiseCmdError c s).res = s.res := rfl
@[simp] theorem raiseCmdError_ctr (c : ErrCode) (s : State) : (raiseCmdError c s).ctr = s.ctr := rfl
@[simp] theorem raiseCmdError_mkLen (c : ErrCode) (s : State) : (raiseCmdError c s).mkLen = s.mkLen := rfl
@[simp] theorem raiseCmdError_mkey (c : ErrCode) (s : State) : (raiseCmdError c s).mkey = s.mkey := rfl
@[simp] theorem raiseCmdError_rk (c : ErrCode) (s : State) : (raiseCmdError c s).rk = s.rk := rfl
@[simp] theorem raiseCmdError_rkinfo (c : ErrCode) (s : State) : (raiseCmdError c s).rkinfo = s.rkinfo := rfl
@[simp] theorem raiseCmdError_sbox (c : ErrCode) (s : State) : (raiseCmdError c s).sbox = s.sbox := rfl
@[simp] theorem raiseCmdError_pending (c : ErrCode) (s : State) : (raiseCmdError c s).pending = none := rfl
@[simp] theorem raiseCmdError_turns (c : ErrCode) (s : State) : (raiseCmdError c s).turns = s.turns := rfl
@[simp] theorem raiseCmdError_lastResp (c : ErrCode) (s : State) : (raiseCmdError c s).lastResp = s.lastResp := rfl
@[simp] theorem raiseCmdError_freeDraws (c : ErrCode) (s : State) : (raiseCmdError c s).freeDraws = s.freeDraws := rfl

@[simp] theorem writeStatus_ie (v : Word) (s : State) : (writeStatus v s).ie = s.ie := rfl
@[simp] theorem writeStatus_status (v : Word) (s : State) : (writeStatus v s).status = statusW1C v s.status := rfl
@[simp] theorem writeStatus_cmd (v : Word) (s : State) : (writeStatus v s).cmd = s.cmd := rfl
@[simp] theorem writeStatus_din (v : Word) (s : State) : (writeStatus v s).din = s.din := rfl
@[simp] theorem writeStatus_dout (v : Word) (s : State) : (writeStatus v s).dout = s.dout := rfl
@[simp] theorem writeStatus_res (v : Word) (s : State) : (writeStatus v s).res = s.res := rfl
@[simp] theorem writeStatus_ctr (v : Word) (s : State) : (writeStatus v s).ctr = s.ctr := rfl
@[simp] theorem writeStatus_mkLen (v : Word) (s : State) : (writeStatus v s).mkLen = s.mkLen := rfl
@[simp] theorem writeStatus_mkey (v : Word) (s : State) : (writeStatus v s).mkey = s.mkey := rfl
@[simp] theorem writeStatus_rk (v : Word) (s : State) : (writeStatus v s).rk = s.rk := rfl
@[simp] theorem writeStatus_rkinfo (v : Word) (s : State) : (writeStatus v s).rkinfo = s.rkinfo := rfl
@[simp] theorem writeStatus_sbox (v : Word) (s : State) : (writeStatus v s).sbox = s.sbox := rfl
@[simp] theorem writeStatus_pending (v : Word) (s : State) : (writeStatus v s).pending = s.pending := rfl
@[simp] theorem writeStatus_turns (v : Word) (s : State) : (writeStatus v s).turns = s.turns := rfl
@[simp] theorem writeStatus_lastResp (v : Word) (s : State) : (writeStatus v s).lastResp = s.lastResp := rfl
@[simp] theorem writeStatus_freeDraws (v : Word) (s : State) : (writeStatus v s).freeDraws = s.freeDraws := rfl

@[simp] theorem dropWrite_ie (s : State) : (dropWrite s).ie = s.ie := rfl
@[simp] theorem dropWrite_status (s : State) : (dropWrite s).status = statusBusyWrite s.status := rfl
@[simp] theorem dropWrite_cmd (s : State) : (dropWrite s).cmd = s.cmd := rfl
@[simp] theorem dropWrite_din (s : State) : (dropWrite s).din = s.din := rfl
@[simp] theorem dropWrite_dout (s : State) : (dropWrite s).dout = s.dout := rfl
@[simp] theorem dropWrite_res (s : State) : (dropWrite s).res = s.res := rfl
@[simp] theorem dropWrite_ctr (s : State) : (dropWrite s).ctr = s.ctr := rfl
@[simp] theorem dropWrite_mkLen (s : State) : (dropWrite s).mkLen = s.mkLen := rfl
@[simp] theorem dropWrite_mkey (s : State) : (dropWrite s).mkey = s.mkey := rfl
@[simp] theorem dropWrite_rk (s : State) : (dropWrite s).rk = s.rk := rfl
@[simp] theorem dropWrite_rkinfo (s : State) : (dropWrite s).rkinfo = s.rkinfo := rfl
@[simp] theorem dropWrite_sbox (s : State) : (dropWrite s).sbox = s.sbox := rfl
@[simp] theorem dropWrite_pending (s : State) : (dropWrite s).pending = s.pending := rfl
@[simp] theorem dropWrite_turns (s : State) : (dropWrite s).turns = s.turns := rfl
@[simp] theorem dropWrite_lastResp (s : State) : (dropWrite s).lastResp = s.lastResp := rfl
@[simp] theorem dropWrite_freeDraws (s : State) : (dropWrite s).freeDraws = s.freeDraws := rfl

@[simp] theorem kfail_ie (p : Params) (s : State) : (kfail p s).ie = s.ie := rfl
@[simp] theorem kfail_status (p : Params) (s : State) : (kfail p s).status = s.status := rfl
@[simp] theorem kfail_cmd (p : Params) (s : State) : (kfail p s).cmd = s.cmd := rfl
@[simp] theorem kfail_din (p : Params) (s : State) : (kfail p s).din = s.din := rfl
@[simp] theorem kfail_dout (p : Params) (s : State) : (kfail p s).dout = s.dout := rfl
@[simp] theorem kfail_res (p : Params) (s : State) : (kfail p s).res = s.res := rfl
@[simp] theorem kfail_ctr (p : Params) (s : State) : (kfail p s).ctr = s.ctr := rfl
@[simp] theorem kfail_mkLen (p : Params) (s : State) : (kfail p s).mkLen = s.mkLen := rfl
@[simp] theorem kfail_mkey (p : Params) (s : State) : (kfail p s).mkey = s.mkey := rfl
@[simp] theorem kfail_rk (p : Params) (s : State) : (kfail p s).rk = List.replicate p.rkSlots zeroBlock := rfl
@[simp] theorem kfail_rkinfo (p : Params) (s : State) : (kfail p s).rkinfo = ⟨0#4, 0#4, 0#3⟩ := rfl
@[simp] theorem kfail_sbox (p : Params) (s : State) : (kfail p s).sbox = s.sbox := rfl
@[simp] theorem kfail_pending (p : Params) (s : State) : (kfail p s).pending = s.pending := rfl
@[simp] theorem kfail_turns (p : Params) (s : State) : (kfail p s).turns = s.turns := rfl
@[simp] theorem kfail_lastResp (p : Params) (s : State) : (kfail p s).lastResp = s.lastResp := rfl
@[simp] theorem kfail_freeDraws (p : Params) (s : State) : (kfail p s).freeDraws = s.freeDraws := rfl

@[simp] theorem loadSchedule_ie (p : Params) (sl : List Block) (rc bs : Nat) (s : State) : (loadSchedule p sl rc bs s).ie = s.ie := rfl
@[simp] theorem loadSchedule_status (p : Params) (sl : List Block) (rc bs : Nat) (s : State) :
    (loadSchedule p sl rc bs s).status = s.status := rfl
@[simp] theorem loadSchedule_cmd (p : Params) (sl : List Block) (rc bs : Nat) (s : State) :
    (loadSchedule p sl rc bs s).cmd = s.cmd := rfl
@[simp] theorem loadSchedule_din (p : Params) (sl : List Block) (rc bs : Nat) (s : State) :
    (loadSchedule p sl rc bs s).din = s.din := rfl
@[simp] theorem loadSchedule_dout (p : Params) (sl : List Block) (rc bs : Nat) (s : State) :
    (loadSchedule p sl rc bs s).dout = s.dout := rfl
@[simp] theorem loadSchedule_res (p : Params) (sl : List Block) (rc bs : Nat) (s : State) :
    (loadSchedule p sl rc bs s).res = s.res := rfl
@[simp] theorem loadSchedule_ctr (p : Params) (sl : List Block) (rc bs : Nat) (s : State) :
    (loadSchedule p sl rc bs s).ctr = s.ctr := rfl
@[simp] theorem loadSchedule_mkLen (p : Params) (sl : List Block) (rc bs : Nat) (s : State) :
    (loadSchedule p sl rc bs s).mkLen = s.mkLen := rfl
@[simp] theorem loadSchedule_mkey (p : Params) (sl : List Block) (rc bs : Nat) (s : State) :
    (loadSchedule p sl rc bs s).mkey = s.mkey := rfl
@[simp] theorem loadSchedule_rk (p : Params) (sl : List Block) (rc bs : Nat) (s : State) :
    (loadSchedule p sl rc bs s).rk = scheduleSlots p.rkSlots sl := rfl
@[simp] theorem loadSchedule_rkinfo (p : Params) (sl : List Block) (rc bs : Nat) (s : State) :
    (loadSchedule p sl rc bs s).rkinfo = ⟨BitVec.ofNat 4 (2 ^ min rc p.rkSlots - 1), BitVec.ofNat 4 bs, BitVec.ofNat 3 rc⟩ := rfl
@[simp] theorem loadSchedule_sbox (p : Params) (sl : List Block) (rc bs : Nat) (s : State) :
    (loadSchedule p sl rc bs s).sbox = s.sbox := rfl
@[simp] theorem loadSchedule_pending (p : Params) (sl : List Block) (rc bs : Nat) (s : State) :
    (loadSchedule p sl rc bs s).pending = s.pending := rfl
@[simp] theorem loadSchedule_turns (p : Params) (sl : List Block) (rc bs : Nat) (s : State) :
    (loadSchedule p sl rc bs s).turns = s.turns := rfl
@[simp] theorem loadSchedule_lastResp (p : Params) (sl : List Block) (rc bs : Nat) (s : State) :
    (loadSchedule p sl rc bs s).lastResp = s.lastResp := rfl
@[simp] theorem loadSchedule_freeDraws (p : Params) (sl : List Block) (rc bs : Nat) (s : State) :
    (loadSchedule p sl rc bs s).freeDraws = s.freeDraws := rfl

@[simp] theorem clearSecrets_ie (p : Params) (s : State) : (clearSecrets p s).ie = s.ie := rfl
@[simp] theorem clearSecrets_status (p : Params) (s : State) : (clearSecrets p s).status = s.status := rfl
@[simp] theorem clearSecrets_cmd (p : Params) (s : State) : (clearSecrets p s).cmd = s.cmd := rfl
@[simp] theorem clearSecrets_din (p : Params) (s : State) : (clearSecrets p s).din = zeroBlock := rfl
@[simp] theorem clearSecrets_dout (p : Params) (s : State) : (clearSecrets p s).dout = zeroBlock := rfl
@[simp] theorem clearSecrets_res (p : Params) (s : State) : (clearSecrets p s).res = 0#32 := rfl
@[simp] theorem clearSecrets_ctr (p : Params) (s : State) : (clearSecrets p s).ctr = s.ctr := rfl
@[simp] theorem clearSecrets_mkLen (p : Params) (s : State) : (clearSecrets p s).mkLen = 0#6 := rfl
@[simp] theorem clearSecrets_mkey (p : Params) (s : State) :
    (clearSecrets p s).mkey = List.replicate p.keyRegs 0#32 := rfl
@[simp] theorem clearSecrets_rk (p : Params) (s : State) :
    (clearSecrets p s).rk = List.replicate p.rkSlots zeroBlock := rfl
@[simp] theorem clearSecrets_rkinfo (p : Params) (s : State) : (clearSecrets p s).rkinfo = ⟨0#4, 0#4, 0#3⟩ := rfl
@[simp] theorem clearSecrets_sbox (p : Params) (s : State) : (clearSecrets p s).sbox = s.sbox := rfl
@[simp] theorem clearSecrets_pending (p : Params) (s : State) : (clearSecrets p s).pending = s.pending := rfl
@[simp] theorem clearSecrets_turns (p : Params) (s : State) : (clearSecrets p s).turns = s.turns := rfl
@[simp] theorem clearSecrets_lastResp (p : Params) (s : State) : (clearSecrets p s).lastResp = s.lastResp := rfl
@[simp] theorem clearSecrets_freeDraws (p : Params) (s : State) : (clearSecrets p s).freeDraws = s.freeDraws := rfl

@[simp] theorem statusIssued_busy (st : Status) : (statusIssued st).busy = true := rfl
@[simp] theorem statusIssued_done (st : Status) : (statusIssued st).done = false := rfl
@[simp] theorem statusIssued_err (st : Status) : (statusIssued st).err = st.err := rfl
@[simp] theorem statusIssued_errcode (st : Status) : (statusIssued st).errcode = st.errcode := rfl

@[simp] theorem statusCompleted_busy (st : Status) : (statusCompleted st).busy = false := rfl
@[simp] theorem statusCompleted_done (st : Status) : (statusCompleted st).done = true := rfl
@[simp] theorem statusCompleted_err (st : Status) : (statusCompleted st).err = st.err := rfl
@[simp] theorem statusCompleted_errcode (st : Status) : (statusCompleted st).errcode = st.errcode := rfl

@[simp] theorem statusBusyWrite_busy (st : Status) : (statusBusyWrite st).busy = st.busy := rfl
@[simp] theorem statusBusyWrite_done (st : Status) : (statusBusyWrite st).done = st.done := rfl
@[simp] theorem statusBusyWrite_err (st : Status) : (statusBusyWrite st).err = true := rfl
@[simp] theorem statusBusyWrite_errcode (st : Status) : (statusBusyWrite st).errcode = .busyWrite := rfl

@[simp] theorem statusRaised_busy (c : ErrCode) : (statusRaised c).busy = false := rfl
@[simp] theorem statusRaised_done (c : ErrCode) : (statusRaised c).done = true := rfl
@[simp] theorem statusRaised_err (c : ErrCode) : (statusRaised c).err = true := rfl
@[simp] theorem statusRaised_errcode (c : ErrCode) : (statusRaised c).errcode = c := rfl

@[simp] theorem statusW1C_busy (v : Word) (st : Status) :
    (statusW1C v st).busy = st.busy := rfl
@[simp] theorem statusW1C_done (v : Word) (st : Status) :
    (statusW1C v st).done = if v.getLsbD 1 then false else st.done := rfl
@[simp] theorem statusW1C_err (v : Word) (st : Status) :
    (statusW1C v st).err = if v.getLsbD 2 then false else st.err := rfl
@[simp] theorem statusW1C_errcode (v : Word) (st : Status) :
    (statusW1C v st).errcode = if v.getLsbD 2 then .noError else st.errcode := rfl

@[simp] theorem resetState_ie (p : Params) : (resetState p).ie = false := rfl
@[simp] theorem resetState_status (p : Params) : (resetState p).status = ⟨false, false, false, .noError⟩ := rfl
@[simp] theorem resetState_cmd (p : Params) : (resetState p).cmd = 0#32 := rfl
@[simp] theorem resetState_din (p : Params) : (resetState p).din = zeroBlock := rfl
@[simp] theorem resetState_dout (p : Params) : (resetState p).dout = zeroBlock := rfl
@[simp] theorem resetState_res (p : Params) : (resetState p).res = 0#32 := rfl
@[simp] theorem resetState_ctr (p : Params) : (resetState p).ctr = ctrInit := rfl
@[simp] theorem resetState_mkLen (p : Params) : (resetState p).mkLen = 0#6 := rfl
@[simp] theorem resetState_mkey (p : Params) : (resetState p).mkey = List.replicate p.keyRegs 0#32 := rfl
@[simp] theorem resetState_rk (p : Params) : (resetState p).rk = List.replicate p.rkSlots zeroBlock := rfl
@[simp] theorem resetState_rkinfo (p : Params) : (resetState p).rkinfo = ⟨0#4, 0#4, 0#3⟩ := rfl
@[simp] theorem resetState_sbox (p : Params) :
    (resetState p).sbox = Vector.ofFn fun t => packTable (p.sboxInit t) := rfl
@[simp] theorem resetState_pending (p : Params) : (resetState p).pending = none := rfl
@[simp] theorem resetState_turns (p : Params) : (resetState p).turns = [] := rfl
@[simp] theorem resetState_lastResp (p : Params) : (resetState p).lastResp = none := rfl
@[simp] theorem resetState_freeDraws (p : Params) : (resetState p).freeDraws = 0 := rfl

@[simp] theorem resetEdge_ie (p : Params) (a : Option BusAccess) (s : State) :
    (resetEdge p a s).ie = (resetState p).ie := by cases a <;> rfl
@[simp] theorem resetEdge_status (p : Params) (a : Option BusAccess) (s : State) :
    (resetEdge p a s).status = (resetState p).status := by cases a <;> rfl
@[simp] theorem resetEdge_cmd (p : Params) (a : Option BusAccess) (s : State) :
    (resetEdge p a s).cmd = (resetState p).cmd := by cases a <;> rfl
@[simp] theorem resetEdge_din (p : Params) (a : Option BusAccess) (s : State) :
    (resetEdge p a s).din = (resetState p).din := by cases a <;> rfl
@[simp] theorem resetEdge_dout (p : Params) (a : Option BusAccess) (s : State) :
    (resetEdge p a s).dout = (resetState p).dout := by cases a <;> rfl
@[simp] theorem resetEdge_res (p : Params) (a : Option BusAccess) (s : State) :
    (resetEdge p a s).res = (resetState p).res := by cases a <;> rfl
@[simp] theorem resetEdge_ctr (p : Params) (a : Option BusAccess) (s : State) :
    (resetEdge p a s).ctr = (resetState p).ctr := by cases a <;> rfl
@[simp] theorem resetEdge_mkLen (p : Params) (a : Option BusAccess) (s : State) :
    (resetEdge p a s).mkLen = (resetState p).mkLen := by cases a <;> rfl
@[simp] theorem resetEdge_mkey (p : Params) (a : Option BusAccess) (s : State) :
    (resetEdge p a s).mkey = (resetState p).mkey := by cases a <;> rfl
@[simp] theorem resetEdge_rk (p : Params) (a : Option BusAccess) (s : State) :
    (resetEdge p a s).rk = (resetState p).rk := by cases a <;> rfl
@[simp] theorem resetEdge_rkinfo (p : Params) (a : Option BusAccess) (s : State) :
    (resetEdge p a s).rkinfo = (resetState p).rkinfo := by cases a <;> rfl
@[simp] theorem resetEdge_sbox (p : Params) (a : Option BusAccess) (s : State) :
    (resetEdge p a s).sbox = (resetState p).sbox := by cases a <;> rfl
@[simp] theorem resetEdge_pending (p : Params) (a : Option BusAccess) (s : State) :
    (resetEdge p a s).pending = (resetState p).pending := by cases a <;> rfl
@[simp] theorem resetEdge_turns (p : Params) (a : Option BusAccess) (s : State) : (resetEdge p a s).turns = s.turns := by
  cases a <;> rfl

/-- This hardware's reset state. -/
theorem reset_eq : State.reset = resetState hwParams := rfl

end Sys2Proof.Machine
end

