-- ==== Sys2Proof/Laws/Bus.lean ====
section
/-! SUPPORT. What a host access can do, said once, and what a register write leaves unchanged. -/

namespace Sys2Proof.Machine

/-- A host access is answered with an error and changes nothing, or is a write, or is a read that changes nothing. -/
theorem hostAccess_cases (p : Params) (a : BusAccess) (s : State) :
    (badAccess a = true ∧ hostAccess p a s =
      { s with lastResp := some { rdata := if a.write then none else some 0#32, err := true } }) ∨
    (badAccess a = false ∧ a.write = true ∧ hostAccess p a s =
      { hostWrite p (regAt a.addr) a.wdata s with lastResp := some { rdata := none, err := false } }) ∨
    (badAccess a = false ∧ a.write = false ∧ hostAccess p a s =
      { s with lastResp := some { rdata := some (readReg (regAt a.addr) s), err := false } }) := by
  unfold hostAccess
  by_cases hb : badAccess a = true
  · simp [hb]
  · by_cases hw : a.write = true <;> simp [hb, hw]

/-- A write is dropped, performed on STATUS, or performed with BUSY = 0. -/
theorem hostWrite_cases (p : Params) (r : Reg) (v : Word) (s : State) :
    (s.status.busy = true ∧ r ≠ .status ∧ hostWrite p r v s = dropWrite s) ∨
    (r = .status ∧ hostWrite p r v s = writeStatus v s) ∨
    (s.status.busy = false ∧ r ≠ .status ∧ hostWrite p r v s = writeReg p r v s) := by
  unfold hostWrite
  by_cases hr : r = .status
  · subst hr; simp [writeReg]
  · cases hb : s.status.busy <;> simp [hr]

/-- A register write never touches the result and schedule registers, nor the model's own fields. -/
theorem writeReg_frame (p : Params) (r : Reg) (v : Word) (s : State) :
    (writeReg p r v s).dout = s.dout ∧ (writeReg p r v s).res = s.res ∧ (writeReg p r v s).rk = s.rk ∧
    (writeReg p r v s).rkinfo = s.rkinfo ∧ (writeReg p r v s).turns = s.turns ∧
    (writeReg p r v s).lastResp = s.lastResp ∧ (writeReg p r v s).freeDraws = s.freeDraws := by
  cases r <;> simp [writeReg]

/-- Nor does a host write, accepted or dropped. -/
theorem hostWrite_frame (p : Params) (r : Reg) (v : Word) (s : State) :
    (hostWrite p r v s).dout = s.dout ∧ (hostWrite p r v s).res = s.res ∧ (hostWrite p r v s).rk = s.rk ∧
    (hostWrite p r v s).rkinfo = s.rkinfo ∧ (hostWrite p r v s).turns = s.turns ∧
    (hostWrite p r v s).lastResp = s.lastResp ∧ (hostWrite p r v s).freeDraws = s.freeDraws := by
  rcases hostWrite_cases p r v s with ⟨_, _, h⟩ | ⟨_, h⟩ | ⟨_, _, h⟩ <;> rw [h]
  · simp
  · simp
  · exact writeReg_frame p r v s

/-- A write to the window keeps the number of key registers. -/
@[simp] theorem hostWrite_mkey_length (p : Params) (r : Reg) (v : Word) (s : State) :
    (hostWrite p r v s).mkey.length = s.mkey.length := by
  rcases hostWrite_cases p r v s with ⟨_, _, h⟩ | ⟨_, h⟩ | ⟨_, _, h⟩ <;> rw [h]
  · simp
  · simp
  · cases r <;> simp [writeReg]

/-- A full aligned write is the host write to its register, answered without an error. -/
theorem hostAccess_write (p : Params) (a : BusAccess) (s : State) (hw : a.write = true) (hb : badAccess a = false) :
    hostAccess p a s = { hostWrite p (regAt a.addr) a.wdata s with lastResp := some { rdata := none, err := false } } := by
  simp [hostAccess, hw, hb]

/-- A write to MK_LEN leaves a length within the capacity (10_state.md R30). -/
theorem mkLenLegal_le (cap : Nat) (v : Word) : (mkLenLegal cap v).toNat ≤ cap := by
  unfold mkLenLegal
  split
  · next h => rw [BitVec.toNat_ofNat]; exact Nat.mod_le _ _
  · next h => exact Nat.le_of_not_lt h

end Sys2Proof.Machine
end

