-- ==== Sys2Proof/Laws/Bytes.lean ====
section
/-! SUPPORT. Bytes and blocks: each byte of a built block, and a block is its eight bytes. -/

namespace Sys2Proof.Machine

theorem wordByte_be32 (b0 b1 b2 b3 : Byte) :
    wordByte (be32 b0 b1 b2 b3) 0 = b0 ∧ wordByte (be32 b0 b1 b2 b3) 1 = b1 ∧
    wordByte (be32 b0 b1 b2 b3) 2 = b2 ∧ wordByte (be32 b0 b1 b2 b3) 3 = b3 := by
  refine ⟨?_, ?_, ?_, ?_⟩ <;> ext i hi <;> simp [wordByte, be32] <;> grind

/-- A word is the big-endian packing of its bytes. -/
theorem be32_wordByte (w : Word) : be32 (wordByte w 0) (wordByte w 1) (wordByte w 2) (wordByte w 3) = w := by
  ext i hi
  simp [wordByte, be32]
  grind

/-- The bytes of a built block are the bytes it was built from. -/
theorem blockByte_blockOf (f : Nat → Byte) (j : Nat) (h : j < 8) : blockByte (blockOf f) j = f j := by
  have hi := wordByte_be32 (f 0) (f 1) (f 2) (f 3)
  have lo := wordByte_be32 (f 4) (f 5) (f 6) (f 7)
  interval_cases j <;> simp [blockByte, blockOf, hi, lo]

/-- A block is the block of its bytes. -/
theorem blockOf_blockByte (b : Block) : blockOf (blockByte b) = b := by
  simp [blockOf, blockByte, be32_wordByte]

/-- Two blocks with the same eight bytes are equal. -/
theorem block_eq_of_bytes (a b : Block) (h : ∀ j, j < 8 → blockByte a j = blockByte b j) : a = b := by
  rw [← blockOf_blockByte a, ← blockOf_blockByte b]
  simp [blockOf, h]

theorem blockByte_keepFirst (n : Nat) (b : Block) (j : Nat) (h : j < 8) :
    blockByte (keepFirst n b) j = if j < n then blockByte b j else 0x00#8 :=
  blockByte_blockOf _ j h

theorem blockByte_xorBlock (a b : Block) (j : Nat) :
    blockByte (xorBlock a b) j = blockByte a j ^^^ blockByte b j := by
  unfold blockByte xorBlock wordByte
  split <;> simp [BitVec.extractLsb'_xor]

theorem blockByte_zeroBlock (j : Nat) : blockByte zeroBlock j = 0x00#8 := by
  simp [blockByte, zeroBlock, wordByte]

/-- Nibble j of a packed word. -/
theorem nibbleOf_packNibbles (f : Nat → Nibble) (j : Nat) (h : j < 8) : nibbleOf (packNibbles f) j = f j := by
  interval_cases j <;> ext i hi <;> simp [nibbleOf, packNibbles] <;> grind

end Sys2Proof.Machine
end

