-- ==== Sys2Proof/Laws/Ops.lean ====
section
/-! SUPPORT. What each shared operation can do, said once: the slot check, the three KEYGEN outcomes, and the outcomes of a
command's completion. -/

namespace Sys2Proof.Machine

@[simp] theorem scheduleSlots_length (slots : Nat) (sl : List Block) : (scheduleSlots slots sl).length = slots := by
  simp [scheduleSlots]

/-- Slot k of a schedule: slice k, and 0x00 x 8 past the slices and past the slots. -/
theorem scheduleSlots_getD (slots : Nat) (sl : List Block) (k : Nat) :
    (scheduleSlots slots sl).getD k zeroBlock = if k < slots then sl.getD k zeroBlock else zeroBlock := by
  by_cases h : k < slots <;> simp [scheduleSlots, List.getD, h]

/-- No slot of a cleared schedule holds a key. -/
@[simp] theorem slotKey_cleared (n k : Nat) : (List.replicate n zeroBlock).getD k zeroBlock = zeroBlock := by
  by_cases h : k < n <;> simp [List.getD, h]

theorem withKeys_of_valid (ks : List Nat) (f : State → State) (s : State) (h : ∀ k ∈ ks, slotValid s k = true) :
    withKeys ks f s = completeOk (f s) := by
  simp [withKeys, List.all_eq_true.mpr h]

theorem withKeys_of_missing (ks : List Nat) (f : State → State) (s : State) (k : Nat) (hk : k ∈ ks)
    (h : slotValid s k = false) : withKeys ks f s = raiseCmdError .noKey s := by
  have : ks.all (slotValid s) = false := List.all_eq_false.mpr ⟨k, hk, by simp [h]⟩
  simp [withKeys, this]

/-- A command that reads slots completes with its results, or raises NO_KEY. -/
theorem withKeys_cases (ks : List Nat) (f : State → State) (s : State) :
    withKeys ks f s = completeOk (f s) ∨ withKeys ks f s = raiseCmdError .noKey s := by
  unfold withKeys; split <;> simp

theorem kslice_of_long (mk : List Word) (len rc bs : Nat) (h : rc * bs ≤ len) :
    kslice mk len rc bs = some ((List.range rc).map (keySlice mk bs)) := by
  simp [kslice, Nat.not_lt.mpr h]

theorem runKeygen_of_short (p : Params) (need : Nat) (c : ErrCode) (rc bs : Nat) (s : State) (h : keyLength s < need) :
    runKeygen p need c rc bs s = keygenFail p c s := by
  simp [runKeygen, h]

theorem runKeygen_of_long (p : Params) (need : Nat) (c : ErrCode) (rc bs : Nat) (s : State) (h : need ≤ keyLength s)
    (hn : rc * bs ≤ need) :
    runKeygen p need c rc bs s = completeOk (loadSchedule p ((List.range rc).map (keySlice s.mkey bs)) rc bs s) := by
  simp [runKeygen, Nat.not_lt.mpr h, kslice_of_long s.mkey (keyLength s) rc bs (Nat.le_trans hn h)]

/-- A KEYGEN loads a schedule, or fails with its code after KFAIL. -/
theorem runKeygen_cases (p : Params) (need : Nat) (c : ErrCode) (rc bs : Nat) (s : State) (hn : rc * bs ≤ need) :
    (need ≤ keyLength s ∧ runKeygen p need c rc bs s =
      completeOk (loadSchedule p ((List.range rc).map (keySlice s.mkey bs)) rc bs s)) ∨
    (keyLength s < need ∧ runKeygen p need c rc bs s = keygenFail p c s) := by
  by_cases h : need ≤ keyLength s
  · exact .inl ⟨h, runKeygen_of_long p need c rc bs s h hn⟩
  · exact .inr ⟨by omega, runKeygen_of_short p need c rc bs s (by omega)⟩

/-- Slot k of a loaded schedule. -/
theorem loadSchedule_slot (p : Params) (sl : List Block) (rc bs : Nat) (s : State) (k : Nat) :
    slotKey (loadSchedule p sl rc bs s) k = if k < p.rkSlots then sl.getD k zeroBlock else zeroBlock :=
  scheduleSlots_getD p.rkSlots sl k

/-- Slot k of the slices of a key, zero at rc and above. -/
theorem slices_getD (mk : List Word) (rc bs k : Nat) :
    ((List.range rc).map (keySlice mk bs)).getD k zeroBlock = if k < rc then keySlice mk bs k else zeroBlock := by
  by_cases h : k < rc <;> simp [List.getD, h]

/-- The outcome of a completion without the `next`, for every parameter: what a command does to the state. -/
theorem execWith_cases (p : Params) (i : Instr) (s t : State) (h : execWith p i s = .next t) :
    (∃ r, t = completeOk r) ∨ t = raiseCmdError .noKey s ∨ t = keygenFail p .keyLen s ∨ t = keygenFail p .rkCount s := by
  have keygen : ∀ need c rc bs, rc * bs ≤ need → (∃ r, runKeygen p need c rc bs s = completeOk r) ∨
      runKeygen p need c rc bs s = keygenFail p c s := fun need c rc bs hn =>
    (runKeygen_cases p need c rc bs s hn).imp (fun h => ⟨_, h.2⟩) (fun h => h.2)
  have keys : ∀ ks f, (∃ r, withKeys ks f s = completeOk r) ∨ withKeys ks f s = raiseCmdError .noKey s :=
    fun ks f => (withKeys_cases ks f s).imp (fun h => ⟨_, h⟩) id
  cases i <;> simp only [execWith, Host.Outcome.next.injEq, execNop, execSbox, execCtrinc] at h <;> subst h
  case nop | sbox | ctrinc | zeroize => exact .inl ⟨_, rfl⟩
  case roundf | fenc | fdec | ede | ctr => exact (keys _ _).imp id .inl
  case keygen rc bs => exact (keygen _ _ _ _ (Nat.le_refl _)).imp id fun h => .inr (.inr h)
  case keygenEde => exact (keygen _ _ _ _ (by decide)).imp id fun h => .inr (.inl h)
  case keygenCtr => exact (keygen _ _ _ _ (by decide)).imp id fun h => .inr (.inl h)

end Sys2Proof.Machine
end

