-- ==== Sys2Proof/Laws/Parametric.lean ====
section
/-! SUPPORT. The parametric machine at this hardware's parameters is this hardware: commands, step, reset. -/

namespace Sys2Proof.Machine

/-- What `exec` does is what `execWith` does at this hardware's parameters. -/
theorem exec_eq_execWith (i : Instr) (s : State) : exec i s = execWith hwParams i s := by
  cases i <;> rfl

/-- A step of this hardware is a step of the machine at its parameters. -/
theorem step_eq_stepWith (s : State) : step s = stepWith hwParams s := by
  have h : exec = execWith hwParams := funext fun i => funext (exec_eq_execWith i)
  simp [step, stepWith, h]

/-- The host's machine is the machine at this hardware's parameters. -/
theorem core_eq_machineWith : Sys2Proof.core = machineWith hwParams := by
  have h : step = stepWith hwParams := funext step_eq_stepWith
  simp [Sys2Proof.core, machineWith, h, State.reset]

/-- The outcome of a command's completion on this hardware. -/
theorem exec_cases (i : Instr) (s t : State) (h : exec i s = .next t) :
    (∃ r, t = completeOk r) ∨ t = raiseCmdError .noKey s ∨ t = keygenFail hwParams .keyLen s ∨
      t = keygenFail hwParams .rkCount s :=
  execWith_cases hwParams i s t (exec_eq_execWith i s ▸ h)

end Sys2Proof.Machine
end

