-- ==== Sys2Proof/Laws/PerInstr.lean ====
section
/-! SUPPORT. Laws of every command, one lemma per constructor. -/

namespace Sys2Proof.Laws.ReservedBitsEncodedZero

/-- Bit 15 and bits 31:23 of a command's word are 0 (30_encoding.md R82). -/
def Statement (i : Instr) : Prop := i.wellFormed = true → encode i &&& 0xFF808000#32 = 0#32

theorem len_cases (hi n : Nat) (h : inRange hi n = true) : 1 ≤ n ∧ n ≤ hi := by simpa [inRange] using h

theorem nop : Statement .nop := fun _ => by decide

theorem sbox (t : Fin sbTables) (v : Nibble) : Statement (.sbox t v) := fun _ => by
  revert t v; simp only [encode]; decide

theorem roundf (s : Fin slotCodes) (r : Fin rounds) : Statement (.roundf s r) := fun _ => by
  revert s r; simp only [encode]; decide

theorem fenc (s : Fin slotCodes) : Statement (.fenc s) := fun _ => by revert s; simp only [encode]; decide

theorem fdec (s : Fin slotCodes) : Statement (.fdec s) := fun _ => by revert s; simp only [encode]; decide

theorem ede (len : Nat) : Statement (.ede len) := fun h => by
  obtain ⟨h1, h8⟩ := len_cases 8 len h
  interval_cases len <;> decide

theorem ctr (s : Fin slotCodes) (len : Nat) : Statement (.ctr s len) := fun h => by
  obtain ⟨h1, h8⟩ := len_cases 8 len h
  interval_cases len <;> (revert s; simp only [encode]; decide)

theorem ctrinc : Statement .ctrinc := fun _ => by decide

theorem keygen (rc bs : Nat) : Statement (.keygen rc bs) := fun h => by
  simp only [Instr.wellFormed, Bool.and_eq_true] at h
  obtain ⟨h1, h4⟩ := len_cases 4 rc h.1
  obtain ⟨g1, g8⟩ := len_cases 8 bs h.2
  interval_cases rc <;> interval_cases bs <;> decide

theorem keygenEde : Statement .keygenEde := fun _ => by decide

theorem keygenCtr : Statement .keygenCtr := fun _ => by decide

theorem zeroize : Statement .zeroize := fun _ => by decide

end Sys2Proof.Laws.ReservedBitsEncodedZero
end

