-- ==== Sys2Proof/Laws/Step.lean ====
section
/-! SUPPORT. What one step can be, under every parameter of 00_scope.md R7: the core's, a host access, or a reset edge. The
lemmas about `step` are those about `stepWith` at this hardware's parameters. -/

namespace Sys2Proof.Machine

/-- The core waits, completes an Illegal word, or completes a decoded command. -/
theorem coreStep_cases (run : Instr → State → Host.Outcome State Fault Refusal) (s : State) (o : Host.Outcome State Fault Refusal)
    (h : coreStep run s = o) :
    (s.pending = none ∧ o = .next s) ∨
    (∃ w, s.pending = some w ∧ decode w = none ∧ o = .next (raiseCmdError .illegal s)) ∨
    ∃ w i, s.pending = some w ∧ decode w = some i ∧ o = run i s := by
  subst h
  unfold coreStep
  cases hp : s.pending with
  | none => simp
  | some w => cases hd : decode w <;> simp [hd]

/-- With nothing pending the core waits (R231). -/
theorem coreStep_idle (run : Instr → State → Host.Outcome State Fault Refusal) (s : State) (h : s.pending = none) :
    coreStep run s = .next s := by
  simp [coreStep, h]

/-- The core completes the decoded pending command. -/
theorem coreStep_command (run : Instr → State → Host.Outcome State Fault Refusal) (s : State) (w : Word) (i : Instr)
    (h : s.pending = some w) (hd : decode w = some i) : coreStep run s = run i s := by
  simp [coreStep, h, hd]

/-- A step is the core's (with no turn scheduled, or on its turn), a host access, or a reset edge. -/
theorem stepWith_cases (p : Params) (s : State) (o : Host.Outcome State Fault Refusal) (h : stepWith p s = o) :
    (s.turns = [] ∧ o = coreStep (execWith p) s) ∨
    (∃ rest, s.turns = Turn.complete :: rest ∧ o = coreStep (execWith p) { s with turns := rest }) ∨
    (∃ a rest, s.turns = Turn.access a :: rest ∧ o = .next (hostAccess p a { s with turns := rest })) ∨
    ∃ a rest, s.turns = Turn.reset a :: rest ∧ o = .next (resetEdge p a { s with turns := rest }) := by
  subst h
  unfold stepWith nextMove
  cases ht : s.turns with
  | nil => simp
  | cons t rest => cases t <;> simp [takeTurn]

theorem stepWith_access (p : Params) (s : State) (a : BusAccess) (rest : List Turn) (h : s.turns = Turn.access a :: rest) :
    stepWith p s = .next (hostAccess p a { s with turns := rest }) := by
  simp [stepWith, nextMove, h, takeTurn]

theorem stepWith_reset (p : Params) (s : State) (a : Option BusAccess) (rest : List Turn) (h : s.turns = Turn.reset a :: rest) :
    stepWith p s = .next (resetEdge p a { s with turns := rest }) := by
  simp [stepWith, nextMove, h, takeTurn]

theorem stepWith_complete (p : Params) (s : State) (rest : List Turn) (h : s.turns = Turn.complete :: rest) :
    stepWith p s = coreStep (execWith p) { s with turns := rest } := by
  simp [stepWith, nextMove, h, takeTurn]

theorem stepWith_idle (p : Params) (s : State) (h : s.turns = []) : stepWith p s = coreStep (execWith p) s := by
  simp [stepWith, nextMove, h]

/-- A step of this hardware. -/
theorem step_cases (s : State) (o : Host.Outcome State Fault Refusal) (h : step s = o) :
    (s.turns = [] ∧ o = coreStep exec s) ∨
    (∃ rest, s.turns = Turn.complete :: rest ∧ o = coreStep exec { s with turns := rest }) ∨
    (∃ a rest, s.turns = Turn.access a :: rest ∧ o = .next (hostAccess hwParams a { s with turns := rest })) ∨
    ∃ a rest, s.turns = Turn.reset a :: rest ∧ o = .next (resetEdge hwParams a { s with turns := rest }) := by
  have he : execWith hwParams = exec := funext fun i => funext fun s => (exec_eq_execWith i s).symm
  simpa only [he] using stepWith_cases hwParams s o (step_eq_stepWith s ▸ h)

theorem step_access (s : State) (a : BusAccess) (rest : List Turn) (h : s.turns = Turn.access a :: rest) :
    step s = .next (hostAccess hwParams a { s with turns := rest }) :=
  step_eq_stepWith s ▸ stepWith_access hwParams s a rest h

theorem step_reset (s : State) (a : Option BusAccess) (rest : List Turn) (h : s.turns = Turn.reset a :: rest) :
    step s = .next (resetEdge hwParams a { s with turns := rest }) :=
  step_eq_stepWith s ▸ stepWith_reset hwParams s a rest h

theorem step_complete (s : State) (rest : List Turn) (h : s.turns = Turn.complete :: rest) :
    step s = coreStep exec { s with turns := rest } := by
  simp [step, nextMove, h, takeTurn]

theorem step_idle (s : State) (h : s.turns = []) : step s = coreStep exec s := by
  simp [step, nextMove, h]

end Sys2Proof.Machine
end

