-- ==== Sys2Proof/Machine/Assembler.lean ====
section
/-! DEFINITION. The assembler's text form of a command (30_encoding.md R90): a lower-case mnemonic and its operands,
decimal or `0x` hexadecimal, separated by commas. A line with an unknown mnemonic, a wrong operand count or an operand
outside its range gets no word. The spaces allowed around operands are the model's choice (log 18). -/

namespace Sys2Proof.Machine

/-- The value of a digit in the given base. -/
def digitValue (base : Nat) (c : Char) : Option Nat :=
  let n := c.toNat
  let v :=
    if 48 ≤ n ∧ n ≤ 57 then n - 48
    else if 97 ≤ n ∧ n ≤ 102 then n - 87
    else if 65 ≤ n ∧ n ≤ 70 then n - 55
    else base
  if v < base then some v else none

/-- The digits after those that make `acc`. -/
def digitsFrom (base : Nat) : List Char → Nat → Option Nat
  | [], acc => some acc
  | c :: cs, acc =>
    match digitValue base c with
    | none => none
    | some d => digitsFrom base cs (acc * base + d)

/-- An operand: decimal, or hexadecimal with a `0x` prefix (R90). -/
def parseNumber : List Char → Option Nat
  | [] => none
  | ['0', 'x'] => none
  | '0' :: 'x' :: cs => digitsFrom 16 cs 0
  | cs => digitsFrom 10 cs 0

/-- A list of characters cut at its commas. -/
def splitCommas : List Char → List (List Char)
  | [] => [[]]
  | c :: cs =>
    match splitCommas cs with
    | [] => [[c]]
    | t :: ts => if c = ',' then [] :: t :: ts else (c :: t) :: ts

/-- Spaces at either end dropped. -/
def trimSpaces (cs : List Char) : List Char :=
  ((cs.dropWhile (· == ' ')).reverse.dropWhile (· == ' ')).reverse

/-- The operands after the mnemonic. -/
def parseOperands (cs : List Char) : Option (List Nat) :=
  if trimSpaces cs = [] then some [] else (splitCommas cs).mapM fun t => parseNumber (trimSpaces t)

/-- An operand below n. -/
def below (n : Nat) (x : Nat) : Option (Fin n) := if h : x < n then some ⟨x, h⟩ else none

/-- The syntax column of R90: each mnemonic with the command its operands make. -/
def mnemonicTable : List (List Char × (List Nat → Option Instr)) :=
  [ (['n', 'o', 'p'], fun ops => match ops with | [] => some .nop | _ => none),
    (['s', 'b', 'o', 'x'], fun ops => match ops with
      | [t, v] => (below 4 t).bind fun t => (below 16 v).map fun v => .sbox t (BitVec.ofFin v)
      | _ => none),
    (['r', 'o', 'u', 'n', 'd', 'f'], fun ops => match ops with
      | [s, r] => (below 4 s).bind fun s => (below 16 r).map fun r => .roundf s r
      | _ => none),
    (['f', 'e', 'n', 'c'], fun ops => match ops with | [s] => (below 4 s).map .fenc | _ => none),
    (['f', 'd', 'e', 'c'], fun ops => match ops with | [s] => (below 4 s).map .fdec | _ => none),
    (['e', 'd', 'e'], fun ops => match ops with | [len] => some (.ede len) | _ => none),
    (['c', 't', 'r'], fun ops => match ops with | [s, len] => (below 4 s).map fun s => .ctr s len | _ => none),
    (['c', 't', 'r', 'i', 'n', 'c'], fun ops => match ops with | [] => some .ctrinc | _ => none),
    (['k', 'e', 'y', 'g', 'e', 'n'], fun ops => match ops with | [rc, bs] => some (.keygen rc bs) | _ => none),
    (['k', 'e', 'y', 'g', 'e', 'n', '.', 'e', 'd', 'e'], fun ops => match ops with | [] => some .keygenEde | _ => none),
    (['k', 'e', 'y', 'g', 'e', 'n', '.', 'c', 't', 'r'], fun ops => match ops with | [] => some .keygenCtr | _ => none),
    (['z', 'e', 'r', 'o', 'i', 'z', 'e'], fun ops => match ops with | [] => some .zeroize | _ => none) ]

/-- The word of one line of assembly text, or none for an assembly error (R90). -/
def assembleLine (cs : List Char) : Option Word :=
  let line := trimSpaces cs
  match mnemonicTable.find? (fun row => row.1 == line.takeWhile (· != ' ')) with
  | none => none
  | some row => ((parseOperands (line.dropWhile (· != ' '))).bind row.2).bind assemble

end Sys2Proof.Machine
end

