-- ==== Sys2Proof/Machine/HostNotation.lean ====
section
/-! DEFINITION. The host notation of 30_encoding.md R91, as the turns it stands for (20_memory.md R73). The core sees
only these bus operations; loops and branches are the host's. -/

namespace Sys2Proof.Machine

/-- `wr NAME, value`: one 32-bit write with all strobes. -/
def hostWr (r : Reg) (v : Word) : Turn := .access { write := true, addr := offsetOf r, wdata := v, wstrb := 0xF#4 }

/-- `rd NAME`: one read. -/
def hostRd (r : Reg) : Turn := .access { write := false, addr := offsetOf r, wdata := 0#32, wstrb := 0#4 }

/-- `wait`, when the command completes after n polls of STATUS: n reads with BUSY = 1, the completion, and the read
that shows BUSY = 0 (log 19). -/
def hostWait (n : Nat) : List Turn := List.replicate n (hostRd .status) ++ [.complete, hostRd .status]

/-- `run <command>`: the CMD write, then `wait`. -/
def hostRun (n : Nat) (i : Instr) : List Turn := hostWr .cmd (encode i) :: hostWait n

/-- `ldblk DIN, hi, lo`. -/
def hostLdblkDin (b : Block) : List Turn := [hostWr .dinHi b.hi, hostWr .dinLo b.lo]

/-- `ldblk CTR, hi, lo`. -/
def hostLdblkCtr (b : Block) : List Turn := [hostWr .ctrHi b.hi, hostWr .ctrLo b.lo]

/-- `ldmk n, w0, ..., w7`. -/
def hostLdmk (n : Word) (ws : Vector Word mkRegs) : List Turn :=
  (List.finRange mkRegs).map (fun w => hostWr (.mk w) ws[w]) ++ [hostWr .mkLen n]

/-- `ack`: clears DONE and ERR. -/
def hostAck : Turn := hostWr .status 0x00000006#32

end Sys2Proof.Machine
end

