-- ==== Sys2Proof/Tests/Slice0.lean ====
section
/-! SUPPORT. Tests. Words are written out from the encodings of 30_encoding.md R86, results are those of
95_test_vectors.md (the vector's id is named), or worked by hand from the rule named. The witnesses at the end show that
the hypotheses of the statements can be met. -/

namespace Sys2Proof.Tests

open Sys2Proof Sys2Proof.Machine Sys2Proof.Claims

/-! ### Well-formedness: a length, count or size out of range is refused (R83, R90) -/

theorem test_wf_refuses_ede_0 : (Instr.ede 0).wellFormed = false := by decide
theorem test_wf_refuses_ede_9 : (Instr.ede 9).wellFormed = false := by decide
theorem test_wf_refuses_ctr_0 : (Instr.ctr 0 0).wellFormed = false := by decide
theorem test_wf_refuses_ctr_9 : (Instr.ctr 3 9).wellFormed = false := by decide
theorem test_wf_refuses_keygen_rc_0 : (Instr.keygen 0 1).wellFormed = false := by decide
theorem test_wf_refuses_keygen_rc_5 : (Instr.keygen 5 1).wellFormed = false := by decide
theorem test_wf_refuses_keygen_bs_0 : (Instr.keygen 1 0).wellFormed = false := by decide
theorem test_wf_refuses_keygen_bs_9 : (Instr.keygen 4 9).wellFormed = false := by decide
theorem test_wf_accepts_ends : (Instr.ede 1).wellFormed ∧ (Instr.ede 8).wellFormed ∧ (Instr.ctr 3 8).wellFormed ∧
    (Instr.keygen 1 1).wellFormed ∧ (Instr.keygen 4 8).wellFormed := by decide

/-! ### Decoding: each form's word from the bit patterns of R86 -/

theorem test_decode_nop : decode 0b00000000000000000000000000000000#32 = some .nop := by decide
/-- v = 1001, t = 10 -/
theorem test_decode_sbox : decode 0b00000000000000000000100110000001#32 = some (.sbox 2 9#4) := by decide
/-- v = 1101, s = 01 -/
theorem test_decode_roundf : decode 0b00000000000000000000110100010010#32 = some (.roundf 1 13) := by decide
/-- s = 10 -/
theorem test_decode_fenc : decode 0b00000000000000000000000000100011#32 = some (.fenc 2) := by decide
/-- s = 11 -/
theorem test_decode_fdec : decode 0b00000000000000000000000000110100#32 = some (.fdec 3) := by decide
/-- l = 100 -/
theorem test_decode_ede : decode 0b00000000000000000100000000000101#32 = some (.ede 5) := by decide
/-- l = 110, s = 01 -/
theorem test_decode_ctr : decode 0b00000000000000000110000000010110#32 = some (.ctr 1 7) := by decide
theorem test_decode_ctrinc : decode 0b00000000000000000000000000000111#32 = some .ctrinc := by decide
/-- b = 101, c = 10 -/
theorem test_decode_keygen : decode 0b00000000010110000000000000001000#32 = some (.keygen 3 6) := by decide
theorem test_decode_keygen_ede : decode 0b00000000000000010000000000001000#32 = some .keygenEde := by decide
theorem test_decode_keygen_ctr : decode 0b00000000000000100000000000001000#32 = some .keygenCtr := by decide
theorem test_decode_zeroize : decode 0b00000000000000000000000000001001#32 = some .zeroize := by decide

/-- D1 to D6, K12, K13, X12, Z3: the illegal words of the vectors. -/
theorem test_decode_illegal :
    ([0x0000000A#32, 0x0000000F#32, 0x00008005#32, 0x00000043#32, 0x00000107#32, 0x00800008#32, 0x00030008#32,
      0x00018008#32, 0x00000011#32, 0x80000000#32].map decode) = List.replicate 10 none := by decide

/-- A generic KEYGEN with bit 15, and a scheme form with a count bit, are illegal (R82, R86). -/
theorem test_decode_keygen_reserved : decode 0x00008008#32 = none ∧ decode 0x00050008#32 = none := by decide

/-- The words of the vectors X11, F18, K3, T2, E2 (R90's formulas). -/
theorem test_encode_words : encode (.sbox 3 15#4) = 0x00000FC1#32 ∧ encode (.roundf 0 5) = 0x00000502#32 ∧
    encode (.keygen 4 5) = 0x004C0008#32 ∧ encode (.ctr 0 3) = 0x00002006#32 ∧ encode (.ede 2) = 0x00001005#32 := by decide

/-! ### States for the tests -/

/-- Reset, with the test tables TS_A. -/
def resetA : State := { State.reset with sbox := tablesA }

/-- TS_A and slot 0 = k, and valid. -/
def keyedA (k : Block) : State :=
  { resetA with
    rk := [k, zeroBlock, zeroBlock, zeroBlock]
    rkinfo := { valid := 1#4, bs := 8#4, rc := 1#3 } }

/-- TS_A and the schedule of K1: RK0 = 00..07, RK1 = 08..0F, RK2 = 10..17. -/
def scheduleA : State :=
  { resetA with
    rk := [⟨0x00010203#32, 0x04050607#32⟩, ⟨0x08090A0B#32, 0x0C0D0E0F#32⟩, ⟨0x10111213#32, 0x14151617#32⟩, zeroBlock]
    rkinfo := { valid := 7#4, bs := 8#4, rc := 3#3 } }

/-- A state with a master key of n bytes. -/
def keyOf (n : BitVec 6) (mk : List Word) : State := { State.reset with mkLen := n, mkey := mk }

/-- MK = 00 01 .. 1F. -/
def countingWords : Vector Word 8 :=
  #v[0x00010203#32, 0x04050607#32, 0x08090A0B#32, 0x0C0D0E0F#32, 0x10111213#32, 0x14151617#32, 0x18191A1B#32,
    0x1C1D1E1F#32]

/-- The same as the buffer holds it. -/
def countingKey : List Word := countingWords.toList

/-- The state after the one step that runs the word w as issued. -/
def run (w : Nat) (s : State) : State :=
  match step (s.withFetchWord 32 w) with
  | .next t => t
  | .fault _ => s
  | .refused _ => s

/-- The state after one turn. -/
def turn (t : Turn) (s : State) : State :=
  match step { s with turns := [t] } with
  | .next u => u
  | .fault _ => s
  | .refused _ => s

/-- The state after the one turn of a full write of v to r. -/
def write (r : Reg) (v : Word) (s : State) : State := turn (hostWr r v) s

/-- STATUS as the host reads it. -/
def status (s : State) : Word := readReg .status s

/-- A state with a given STATUS, by its fields. -/
def withStatus (d e : Bool) (c : ErrCode) (s : State) : State :=
  { s with status := { busy := false, done := d, err := e, errcode := c } }

/-- A state with the word w issued. -/
def pendingWord (w : Word) (s : State) : State := issue w s

/-! ### Commands: the vectors of 95_test_vectors.md sections 2.1 to 2.7 -/

/-- Z1, Z2: DONE, and a sticky error stays. -/
theorem test_nop : status (run 0x00000000 resetA) = 0x00000002#32 ∧
    status (run 0x00000000 (withStatus true true .keyLen resetA)) = 0x00000026#32 := by decide

/-- X4, X5, X6, X7, X8, X9, X10. -/
theorem test_sbox_vectors :
    ([0x00000001, 0x00000F01, 0x00000941, 0x00000081, 0x00000781, 0x000002C1, 0x000006C1].map
      fun w => (run w resetA).res) = [1#32, 0xA#32, 0#32, 0xA#32, 0xD#32, 4#32, 4#32] := by decide

/-- F10 and F18 (word 0x00000502): the round index does not matter under FIRST4. -/
theorem test_roundf_f10_f18 :
    (run 0x00000002 { keyedA ⟨0x11223344#32, 0#32⟩ with din := ⟨0#32, 0x12345678#32⟩ }).res = 0x00001E10#32 ∧
    (run 0x00000502 { keyedA ⟨0x11223344#32, 0#32⟩ with din := ⟨0#32, 0x12345678#32⟩ }).res = 0x00001E10#32 := by decide

/-- F19: slot 1 holds no key; NO_KEY, and RES is unchanged. -/
theorem test_roundf_f19 :
    status (run 0x00000012 { keyedA zeroBlock with res := 7#32 }) = 0x00000046#32 ∧
    (run 0x00000012 { keyedA zeroBlock with res := 7#32 }).res = 7#32 := by decide

/-- B6. -/
theorem test_fenc_b6 :
    (run 0x00000003 { keyedA ⟨0x01234567#32, 0x89ABCDEF#32⟩ with din := ⟨0x01234567#32, 0x89ABCDEF#32⟩ }).dout =
      ⟨0x89ABC1F4#32, 0x01234D43#32⟩ := by decide +kernel

/-- B9, and B11: bytes 4..7 of the slot do not matter. -/
theorem test_fenc_b9_b11 :
    (run 0x00000003 (keyedA ⟨0x00010203#32, 0x04050607#32⟩)).dout = ⟨0x00000BB1#32, 0x00000068#32⟩ ∧
    (run 0x00000003 (keyedA ⟨0x00010203#32, 0#32⟩)).dout = ⟨0x00000BB1#32, 0x00000068#32⟩ := by decide +kernel

/-- B6. -/
theorem test_fdec_b6 :
    (run 0x00000004 { keyedA ⟨0x01234567#32, 0x89ABCDEF#32⟩ with din := ⟨0x01234567#32, 0x89ABCDEF#32⟩ }).dout =
      ⟨0x012341F4#32, 0x89ABC5CB#32⟩ := by decide +kernel

/-- B8. -/
theorem test_fdec_b8 :
    (run 0x00000004 { keyedA ⟨0x01234567#32, 0x89ABCDEF#32⟩ with din := ⟨0x00010203#32, 0x04050607#32⟩ }).dout =
      ⟨0x00010DB8#32, 0x04050267#32⟩ := by decide +kernel

/-- E5, and E6 on DIN = 0x4142FFFF_FFFFFFFF: the bytes past LEN are not read and not written. -/
theorem test_ede_e5_e6 :
    (run 0x00007005 { scheduleA with din := ⟨0x01234567#32, 0x89ABCDEF#32⟩ }).dout = ⟨0x0123D573#32, 0x89ABC3DD#32⟩ ∧
    (run 0x00001005 { scheduleA with din := ⟨0x4142FFFF#32, 0xFFFFFFFF#32⟩ }).dout = ⟨0x41420000#32, 0#32⟩ := by
  decide +kernel

/-- E11: with slots 0 and 1 only, NO_KEY and DOUT unchanged. -/
theorem test_ede_e11 :
    status (run 0x00007005 { scheduleA with rkinfo := ⟨3#4, 8#4, 2#3⟩, dout := ⟨1#32, 2#32⟩ }) = 0x00000046#32 ∧
    (run 0x00007005 { scheduleA with rkinfo := ⟨3#4, 8#4, 2#3⟩, dout := ⟨1#32, 2#32⟩ }).dout = ⟨1#32, 2#32⟩ := by decide

/-- T1 and T2's data and counter. -/
theorem test_ctr_t1 :
    (run 0x00007006 { scheduleA with din := ⟨0x48656C6C#32, 0x6F2C2077#32⟩ }).dout = ⟨0x4C6063DD#32, 0x6F2D261C#32⟩ ∧
    (run 0x00007006 scheduleA).ctr = ⟨0x00010203#32, 0x04050608#32⟩ ∧
    (run 0x00002006 { scheduleA with ctr := ⟨0x00010203#32, 0x04050608#32⟩, din := ⟨0x6F726CFF#32, 0xFFFFFFFF#32⟩ }).dout
      = ⟨0x6B776300#32, 0#32⟩ := by decide +kernel

/-- T3: the counter wraps to zero with no error; T8: NO_KEY leaves DOUT and CTR. -/
theorem test_ctr_t3_t8 :
    (run 0x00007006 { scheduleA with ctr := ⟨0xFFFFFFFF#32, 0xFFFFFFFF#32⟩ }).dout = ⟨0xFFFFAB15#32, 0xFFFF7F7B#32⟩ ∧
    (run 0x00007006 { scheduleA with ctr := ⟨0xFFFFFFFF#32, 0xFFFFFFFF#32⟩ }).ctr = zeroBlock ∧
    status (run 0x00007006 { scheduleA with ctr := ⟨0xFFFFFFFF#32, 0xFFFFFFFF#32⟩ }) = 0x00000002#32 ∧
    status (run 0x00007016 (keyedA zeroBlock)) = 0x00000046#32 ∧
    (run 0x00007016 (keyedA zeroBlock)).ctr = ctrInit := by decide +kernel

/-- I1, I2, I4, I5. -/
theorem test_ctrinc_vectors :
    ([⟨0xFFFFFFFF#32, 0xFFFFFFFF#32⟩, ⟨0#32, 0x000000FF#32⟩, ⟨0x00FFFFFF#32, 0xFFFFFFFF#32⟩, ⟨0x12345678#32, 0x9ABCDEFF#32⟩].map
      fun c => (run 0x00000007 { resetA with ctr := c }).ctr) =
      [⟨0#32, 0#32⟩, ⟨0#32, 0x00000100#32⟩, ⟨0x01000000#32, 0#32⟩, ⟨0x12345678#32, 0x9ABCDF00#32⟩] := by decide

/-- K3. -/
theorem test_keygen_k3 :
    (run 0x004C0008 (keyOf 20#6 countingKey)).rk =
      [⟨0x00010203#32, 0x04000000#32⟩, ⟨0x05060708#32, 0x09000000#32⟩, ⟨0x0A0B0C0D#32, 0x0E000000#32⟩,
        ⟨0x0F101112#32, 0x13000000#32⟩] ∧
    readReg .rkinfo (run 0x004C0008 (keyOf 20#6 countingKey)) = 0x0004050F#32 ∧
    status (run 0x004C0008 (keyOf 20#6 countingKey)) = 0x00000002#32 := by decide

/-- K10's RKINFO; K4: 31 bytes are too few for `keygen 4, 8`, and the old schedule is cleared. -/
theorem test_keygen_k10_k4 :
    readReg .rkinfo (run 0x00240008 (keyOf 6#6 countingKey)) = 0x00020303#32 ∧
    status (run 0x007C0008 { scheduleA with mkLen := 31#6 }) = 0x00000036#32 ∧
    (run 0x007C0008 { scheduleA with mkLen := 31#6 }).rk = clearedSlots 4 ∧
    readReg .rkinfo (run 0x007C0008 { scheduleA with mkLen := 31#6 }) = 0#32 := by decide

/-- K1. -/
theorem test_keygen_ede_k1 :
    (run 0x00010008 (keyOf 24#6 countingKey)).rk = scheduleA.rk ∧
    readReg .rkinfo (run 0x00010008 (keyOf 24#6 countingKey)) = 0x00030807#32 := by decide

/-- K7. -/
theorem test_keygen_ede_k7 : status (run 0x00010008 { scheduleA with mkLen := 23#6 }) = 0x00000026#32 ∧
    (run 0x00010008 { scheduleA with mkLen := 23#6 }).rk = clearedSlots 4 := by decide

/-- K5. -/
theorem test_keygen_ctr_k5 :
    (run 0x00020008 (keyOf 16#6 countingKey)).rk =
      [⟨0x00010203#32, 0x04050607#32⟩, ⟨0x08090A0B#32, 0x0C0D0E0F#32⟩, zeroBlock, zeroBlock] ∧
    readReg .rkinfo (run 0x00020008 (keyOf 16#6 countingKey)) = 0x00020803#32 := by decide

/-- K6. -/
theorem test_keygen_ctr_k6 : status (run 0x00020008 { scheduleA with mkLen := 15#6 }) = 0x00000026#32 ∧
    readReg .rkinfo (run 0x00020008 { scheduleA with mkLen := 15#6 }) = 0#32 := by decide

/-- Z4: what is cleared. -/
theorem test_zeroize_z4_cleared :
    let t := run 0x00000009 { scheduleA with
      mkLen := 24#6, mkey := countingKey, din := ⟨1#32, 2#32⟩, dout := ⟨3#32, 4#32⟩, res := 5#32 }
    t.mkey = List.replicate 8 0#32 ∧ t.mkLen = 0#6 ∧ t.rk = clearedSlots 4 ∧ readReg .rkinfo t = 0#32 ∧
      t.din = zeroBlock ∧ t.dout = zeroBlock ∧ t.res = 0#32 ∧ status t = 0x00000002#32 := by decide

/-- Z4: what is kept. -/
theorem test_zeroize_z4_kept :
    let t := run 0x00000009 { scheduleA with ctr := ⟨0x00010203#32, 0x04050609#32⟩, ie := true }
    t.ctr = ⟨0x00010203#32, 0x04050609#32⟩ ∧ t.ie = true ∧ t.cmd = 0x00000009#32 ∧ t.sbox = tablesA := by decide

/-- D1, D5: ILLEGAL, and CTR is unchanged; K12: no KFAIL. -/
theorem test_illegal_d1_d5_k12 : status (run 0x0000000A resetA) = 0x00000016#32 ∧
    (run 0x00000107 resetA).ctr = ctrInit ∧ (run 0x00030008 scheduleA).rk = scheduleA.rk := by decide

/-! ### The parameters' other values (F15, F16, F17) -/

theorem test_rf_high_f15_f16_f17 :
    ([RfHigh.zero, RfHigh.pass, RfHigh.subst8].map
      fun p => roundFn p tablesA 0x12345678#32 #v[0x11#8, 0x22#8, 0x33#8, 0x44#8]) =
      [0x00001E10#32, 0x56071E10#32, 0x9C321E10#32] := by decide

/-- A selection that depends on the round (R147): round 14 alone has a key byte. -/
def lateKey : Params := { hardware with rk4Sel := fun _ r => if r = 14 then #v[1#8, 0#8, 0#8, 0#8] else #v[0#8, 0#8, 0#8, 0#8] }

/-- TS_ID. -/
def tablesId : Vector SboxTable sbTables := Vector.replicate sbTables ⟨0x76543210#32, 0xFEDCBA98#32⟩

/-- Worked by hand from R140, R141 on the zero block under TS_ID. ENC, ascending: round 14 makes (L, R) = (0, 1) and round 15
(1, 1). DEC, descending: round 14, the second, makes (1, 0), and fourteen rounds (L, R) -> (R ^ L, L), of period 3, make
(0, 1). The opposite orders would give (0, 1) and (1, 1). -/
theorem test_round_key_order : encBlock lateKey tablesId zeroBlock zeroBlock = ⟨1#32, 1#32⟩ ∧
    decBlock lateKey tablesId zeroBlock zeroBlock = ⟨0#32, 1#32⟩ := by decide +kernel

/-- A core with two slots, a buffer of 16 bytes and the identity tables (R7; log 21). -/
def smallCore : Params := { hardware with sboxInit := fun _ v => BitVec.ofFin v, mkCap := 16, rkSlots := 2 }

/-- The small core with a key of n bytes. -/
def smallKey (n : BitVec 6) : State := { resetState smallCore with mkLen := n, mkey := countingKey.take 4 }

/-- R37 with the image of TS_ID (95_test_vectors.md section 0); R30 with MK_CAP = 16, through the step. -/
theorem test_small_core_window : readReg (.sboxHi 3) (resetState smallCore) = 0xFEDCBA98#32 ∧
    (∃ t, stepWith smallCore { resetState smallCore with turns := [hostWr .mkLen 40#32] } = .next t ∧ t.mkLen = 16#6) ∧
    (∃ t, stepWith smallCore { resetState smallCore with turns := [hostWr (.mk 3) 7#32] } = .next t ∧ readReg (.mk 3) t = 7#32) ∧
    ∃ t, stepWith smallCore { resetState smallCore with turns := [hostWr (.mk 4) 7#32] } = .next t ∧ readReg (.mk 4) t = 0#32 :=
  ⟨by decide, ⟨_, rfl, by decide⟩, ⟨_, rfl, by decide⟩, ⟨_, rfl, by decide⟩⟩

/-- KEYGEN.CTR fills both slots (K5's slices); of `keygen 3, 5` the third slice has no slot, and VALID has two bits. -/
theorem test_small_core_keygen :
    (∃ t, execWith smallCore .keygenCtr (smallKey 16#6) = .next t ∧ readReg .rkinfo t = 0x00020803#32 ∧
      t.rk = [⟨0x00010203#32, 0x04050607#32⟩, ⟨0x08090A0B#32, 0x0C0D0E0F#32⟩]) ∧
    ∃ t, execWith smallCore (.keygen 3 5) (smallKey 15#6) = .next t ∧ readReg .rkinfo t = 0x00030503#32 ∧
      t.rk = [⟨0x00010203#32, 0x04000000#32⟩, ⟨0x05060708#32, 0x09000000#32⟩] :=
  ⟨⟨_, rfl, by decide, by decide⟩, ⟨_, rfl, by decide, by decide⟩⟩

/-! ### The register window: K14 to K16, D7 to D22, R1 to R5 -/

/-- K14, K15: MK_LEN is WARL. -/
theorem test_mk_len_k14_k15 : readReg .mkLen (write .mkLen 40#32 resetA) = 32#32 ∧
    readReg .mkLen (write .mkLen 0x000000C0#32 resetA) = 0#32 := by decide

/-- K16: a write to MK0 does not change RK0. -/
theorem test_mk_write_k16 : (write (.mk 0) 0xFFFFFFFF#32 scheduleA).rk = scheduleA.rk := by decide

/-- D7, D8, D9. -/
theorem test_status_w1c_d7_d8_d9 :
    status (write .status 4#32 (withStatus true true .illegal resetA)) = 0x00000002#32 ∧
    status (write .status 2#32 (withStatus true true .illegal resetA)) = 0x00000014#32 ∧
    status (turn hostAck (withStatus true true .illegal resetA)) = 0x00000000#32 := by decide

/-- D11: the write is dropped, STATUS shows BUSY_WRITE; after the completion STATUS = 0x56. -/
theorem test_busy_write_d11 :
    (write .dinHi 0x12345678#32 (pendingWord 0#32 resetA)).din = zeroBlock ∧
    status (write .dinHi 0x12345678#32 (pendingWord 0#32 resetA)) = 0x00000055#32 ∧
    status (turn .complete (write .dinHi 0x12345678#32 (pendingWord 0#32 resetA))) = 0x00000056#32 := by decide

/-- D12: a CMD write is dropped; D13: a STATUS write is performed, BUSY stays 1. -/
theorem test_busy_write_d12_d13 :
    (write .cmd 0#32 (pendingWord 3#32 resetA)).pending = some 3#32 ∧
    (write .cmd 0#32 (pendingWord 3#32 resetA)).cmd = 3#32 ∧
    status (write .status 4#32 (write .cmd 0#32 (pendingWord 3#32 resetA))) = 0x00000001#32 := by decide

/-- P3's two outcomes of the last write: dropped while the FENC is pending, or accepted after its completion. -/
theorem test_p3_both_orders :
    status (turn .complete (write .dinHi 0xFFFFFFFF#32 (pendingWord 3#32 scheduleA))) = 0x00000056#32 ∧
    (turn .complete (write .dinHi 0xFFFFFFFF#32 (pendingWord 3#32 scheduleA))).dout = ⟨0x00000BB1#32, 0x00000068#32⟩ ∧
    (write .dinHi 0xFFFFFFFF#32 (turn .complete (pendingWord 3#32 scheduleA))).din.hi = 0xFFFFFFFF#32 ∧
    (write .dinHi 0xFFFFFFFF#32 (turn .complete (pendingWord 3#32 scheduleA))).dout =
      ⟨0x00000BB1#32, 0x00000068#32⟩ := by decide +kernel

/-- D14: a misaligned read; D15: a write with one strobe. -/
theorem test_bus_err_d14_d15 :
    (turn (.access ⟨false, 0x09#8, 0#32, 0xF#4⟩) resetA).lastResp = some ⟨some 0#32, true⟩ ∧
    status (turn (.access ⟨false, 0x09#8, 0#32, 0xF#4⟩) resetA) = 0#32 ∧
    ((turn (.access ⟨true, 0x04#8, 1#32, 0x1#4⟩) resetA).lastResp.map BusResponse.err) = some true ∧
    (turn (.access ⟨true, 0x04#8, 1#32, 0x1#4⟩) resetA).ie = false := by decide

/-- D16, D17, D18, D19. -/
theorem test_window_d16_d19 :
    (turn (.access ⟨false, 0x00#8, 0#32, 0#4⟩) resetA).lastResp = answered 0x53425831#32 ∧
    readReg .id (write .id 0xFFFFFFFF#32 resetA) = 0x53425831#32 ∧
    (turn (.access ⟨false, 0x74#8, 0#32, 0#4⟩) resetA).lastResp = answered 0#32 ∧
    (turn (.access ⟨false, 0xFC#8, 0#32, 0#4⟩) resetA).lastResp = answered 0#32 ∧
    readReg .ctrl (write .ctrl 0xFFFFFFFF#32 resetA) = 1#32 := by decide

/-- D20: a write to a read-only register is ignored, and sets no error. -/
theorem test_window_d20 : (write .doutHi 7#32 resetA).dout = zeroBlock ∧ status (write .doutHi 7#32 resetA) = 0#32 := by
  decide

/-- D21, D22. -/
theorem test_irq_d21_d22 :
    irq (run 0x00000000 { resetA with ie := true }) = true ∧
    irq (write .dinHi 0#32 (pendingWord 0#32 { resetA with ie := true })) = false := by decide

/-- The offsets of R20 named in the vectors and programs. -/
theorem test_offsets : regAt 0x0C#8 = .cmd ∧ regAt 0x2C#8 = .mkLen ∧ regAt 0x30#8 = .mk 0 ∧ regAt 0x4C#8 = .mk 7 ∧
    regAt 0x50#8 = .rkHi 0 ∧ regAt 0x6C#8 = .rkLo 3 ∧ regAt 0x70#8 = .rkinfo ∧ regAt 0x80#8 = .sboxLo 0 ∧
    regAt 0x9C#8 = .sboxHi 3 ∧ regAt 0xA0#8 = .reserved := by decide +kernel

/-- R1, R2, R5 after a reset edge that abandons a command; a read made then returns 0. -/
theorem test_reset_edge :
    let t := turn (.reset (some ⟨false, 0x00#8, 0#32, 0#4⟩)) (pendingWord 3#32 { scheduleA with ctr := zeroBlock })
    readReg .ctrHi t = 0x00010203#32 ∧ readReg .ctrLo t = 0x04050607#32 ∧ readReg .id t = 0x53425831#32 ∧
      irq t = false ∧ t.pending = none ∧ t.dout = zeroBlock ∧ t.rk = clearedSlots 4 ∧
      t.lastResp.map BusResponse.rdata = some (some 0#32) := by decide

/-- With no command pending and no turn to come the core waits (R231). -/
theorem test_idle_waits : step State.reset = .next State.reset := rfl

/-! ### The text forms (R90, R91) -/

theorem test_assemble_lines :
    assembleLine ['s', 'b', 'o', 'x', ' ', '3', ',', ' ', '6'] = some 0x000006C1#32 ∧
    assembleLine ['k', 'e', 'y', 'g', 'e', 'n', ' ', '4', ',', ' ', '0', 'x', '8'] = some 0x007C0008#32 ∧
    assembleLine ['k', 'e', 'y', 'g', 'e', 'n', '.', 'e', 'd', 'e'] = some 0x00010008#32 ∧
    assembleLine ['e', 'd', 'e', ' ', '9'] = none ∧ assembleLine ['n', 'o', 'p', ' ', '1'] = none := by decide

theorem test_host_notation : (hostLdmk 24#32 countingWords)[0]? = some (.access ⟨true, 0x30#8, 0x00010203#32, 0xF#4⟩) ∧
    (hostLdmk 24#32 countingWords)[8]? = some (.access ⟨true, 0x2C#8, 24#32, 0xF#4⟩) ∧
    (hostRun 0 (.ede 3))[0]? = some (.access ⟨true, 0x0C#8, 0x00002005#32, 0xF#4⟩) := by decide

/-! ### Witnesses: the hypotheses of the statements can be met -/

/-- K1's schedule with the FENC word issued and a host's turns to come. -/
def busyA (ts : List Turn) : State := { pendingWord 3#32 scheduleA with turns := ts }

/-- An idle state with one host access next. -/
def idleA (a : BusAccess) : State := { scheduleA with turns := [.access a] }

/-- The turns of the witness states, for every access: the premise on `turns` of the statements about accesses. -/
theorem test_witness_Turns (a : BusAccess) : (idleA a).turns = [.access a] ∧ (busyA [.access a]).turns = [.access a] ∧
    (idleA a).status.busy = false ∧ (busyA [.access a]).status.busy = true := ⟨rfl, rfl, rfl, rfl⟩

/-- A full write. -/
def fullWrite (addr : BitVec 8) (v : Word) : BusAccess := ⟨true, addr, v, 0xF#4⟩

theorem test_witness_EncodeThenDecode :
    (Instr.ctr 3 1).wellFormed = true ∧ (Instr.ede 8).wellFormed = true ∧ (Instr.keygen 4 8).wellFormed = true := by decide
theorem test_witness_OneSpelling : decode 0x007C0008#32 = some (.keygen 4 8) ∧
    0x00008000#32 &&& 0xFF808000#32 ≠ 0#32 ∧ 0x00800008#32 &&& 0xFF808000#32 ≠ 0#32 := by decide
theorem test_witness_ReservedWords :
    10 ≤ ((0x0000000A#32).extractLsb' 0 4).toNat ∧
    ((0x00030008#32).extractLsb' 0 4 = 8#4 ∧ (0x00030008#32).extractLsb' 16 2 = 3#2) ∧
    (0x00008005#32).getLsbD 15 = true ∧ (0x00800008#32).extractLsb' 23 9 ≠ 0#9 ∧
    ((0x00000010#32).extractLsb' 0 4 = 0#4 ∧ 0x00000010#32 ≠ 0#32) := by decide
theorem test_witness_StepRuns : (busyA []).pending = some 3#32 ∧ decode 3#32 = some (.fenc 0) ∧ (busyA []).turns = [] ∧
    (busyA [.complete]).turns = Turn.complete :: [] := by decide
theorem test_witness_IllegalWord : (pendingWord 0x0000000A#32 scheduleA).pending = some 0x0000000A#32 ∧
    decode 0x0000000A#32 = none ∧ (pendingWord 0x0000000A#32 scheduleA).turns = [] ∧
    ({ pendingWord 0x0000000A#32 scheduleA with turns := [.complete] } : State).turns = Turn.complete :: [] := by decide
theorem test_witness_EveryPending : (busyA []).pending.isSome = true ∧ (busyA []).turns = [] ∧
    (busyA [.complete]).pending.isSome = true ∧ (busyA [.complete]).turns = Turn.complete :: [] := by decide

/-- With nothing pending: no turn scheduled, and the core's turn. -/
theorem test_witness_IdleCore : scheduleA.pending = none ∧ scheduleA.turns = [] ∧
    ({ scheduleA with turns := [.complete] } : State).pending = none ∧
    ({ scheduleA with turns := [.complete] } : State).turns = Turn.complete :: [] := ⟨rfl, rfl, rfl, rfl⟩

/-- For ROUNDF, FENC, FDEC, EDE (1 and 8 bytes), CTR, and the laws stated over them. -/
theorem test_witness_ValidSlots : valid scheduleA 0 ∧ valid scheduleA 1 ∧ valid scheduleA 2 ∧
    1 ≤ 1 ∧ 1 ≤ 8 ∧ 8 ≤ 8 := ⟨rfl, rfl, rfl, by decide, by decide, by decide⟩
/-- For ROUNDF, FENC, FDEC and CTR under the last slot. -/
theorem test_witness_ValidLastSlot : valid { scheduleA with rkinfo := ⟨0xF#4, 8#4, 4#3⟩ } (3 : Fin 4).val := rfl
theorem test_witness_KeygenSlices :
    (1 ≤ 1 ∧ 1 * 1 ≤ (keyOf 1#6 countingKey).mkLen.toNat) ∧ 4 * 8 ≤ (keyOf 32#6 countingKey).mkLen.toNat := by decide
/-- KSLICE: a shortfall of one byte, and the least key that is long enough, with its last slice. -/
theorem test_witness_Kslice : 7 < 4 * 2 ∧ 4 * 2 ≤ 8 ∧
    (kslice countingKey 8 4 2).map (fun sl => sl[3]?) = some (some ⟨0x06070000#32, 0#32⟩) := by decide
theorem test_witness_SchemeKeygen :
    24 ≤ (keyOf 24#6 countingKey).mkLen.toNat ∧ 16 ≤ (keyOf 16#6 countingKey).mkLen.toNat := by decide
theorem test_witness_ShortKey : (keyOf 31#6 countingKey).mkLen.toNat < 4 * 8 ∧ (keyOf 0#6 countingKey).mkLen.toNat < 1 * 1 ∧
    (keyOf 23#6 countingKey).mkLen.toNat < 24 ∧ (keyOf 15#6 countingKey).mkLen.toNat < 16 := by decide
theorem test_witness_MissingKey : (∃ k ∈ slotsRead (.fenc 3), ¬ valid scheduleA k) ∧
    (∃ k ∈ slotsRead (.roundf 0 15), ¬ valid State.reset k) ∧ (∃ k ∈ slotsRead (.fdec 0), ¬ valid State.reset k) ∧
    (∃ k ∈ slotsRead (.ede 8), ¬ valid { scheduleA with rkinfo := ⟨3#4, 8#4, 2#3⟩ } k) ∧
    (∃ k ∈ slotsRead (.ctr 3 1), ¬ valid scheduleA k) :=
  ⟨⟨3, by decide, Bool.false_ne_true⟩, ⟨0, by decide, Bool.false_ne_true⟩, ⟨0, by decide, Bool.false_ne_true⟩,
    ⟨2, by decide, Bool.false_ne_true⟩, ⟨3, by decide, Bool.false_ne_true⟩⟩
theorem test_witness_DataCommands : (Instr.ede 8).wellFormed = true ∧ isKeygen (.ede 8) = false ∧
    (∀ k ∈ slotsRead (.ede 8), valid scheduleA k) ∧
    (resetA.status = State.reset.status ∧ resetA.mkLen = State.reset.mkLen ∧ resetA.rkinfo = State.reset.rkinfo) := by
  refine ⟨by decide, by decide, ?_, rfl, rfl, rfl⟩
  intro k hk
  simp only [slotsRead, List.mem_cons, List.not_mem_nil, or_false] at hk
  rcases hk with rfl | rfl | rfl <;> rfl
/-- A completion without an error, one with NO_KEY and one with KFAIL. -/
theorem test_witness_CommandErrors : (∃ t, exec (.fenc 0) scheduleA = .next t ∧ t.status.err = false) ∧
    (∃ t, exec (.fenc 3) scheduleA = .next t ∧ t.status.errcode = .noKey) ∧
    (∃ t, exec .keygenEde scheduleA = .next t ∧ t.status.errcode = .keyLen) :=
  ⟨⟨_, rfl, rfl⟩, ⟨_, rfl, rfl⟩, ⟨_, rfl, rfl⟩⟩
theorem test_witness_CompletionWrites : (∃ t, exec (.fenc 0) scheduleA = .next t ∧ t.dout ≠ scheduleA.dout) ∧
    (∃ t, exec (.sbox 0 0#4) scheduleA = .next t ∧ t.res ≠ scheduleA.res) ∧
    (∃ t, exec .ctrinc scheduleA = .next t ∧ t.ctr ≠ scheduleA.ctr) ∧
    (∃ t, exec .zeroize scheduleA = .next t ∧ t.rk ≠ scheduleA.rk) ∧ Instr.ctrinc ≠ .zeroize :=
  ⟨⟨_, rfl, by decide +kernel⟩, ⟨_, rfl, by decide⟩, ⟨_, rfl, by decide⟩, ⟨_, rfl, by decide⟩, by decide⟩
theorem test_witness_ErrorsBlockNothing : (∃ t, exec .ctrinc scheduleA = .next t) ∧ scheduleA.status.busy = false :=
  ⟨⟨_, rfl⟩, rfl⟩
theorem test_witness_GenericKeygen : 24 ≤ (keyOf 24#6 countingKey).mkLen.toNat ∧
    (keyOf 23#6 countingKey).mkLen.toNat < 24 ∧ (∃ t, exec (.keygen 3 8) (keyOf 23#6 countingKey) = .next t) ∧
    ∃ u, exec .keygenEde (keyOf 23#6 countingKey) = .next u := ⟨by decide, by decide, ⟨_, rfl⟩, ⟨_, rfl⟩⟩

/-- Two inputs that agree on nibble 3 only, with tables that agree on table 3 only. -/
theorem test_witness_NibbleLocal :
    nibbleAt (roundInput 0x00005678#32 #v[0#8, 0#8, 0#8, 0#8]) (3 : Fin 4).val =
      nibbleAt (roundInput 0xFFFF5000#32 #v[0xFF#8, 0#8, 0#8, 0#8]) (3 : Fin 4).val ∧
    tablesA[(3 : Fin 4)] = (#v[⟨0#32, 0#32⟩, ⟨0#32, 0#32⟩, ⟨0#32, 0#32⟩, tablesA[3]] : Vector SboxTable 4)[(3 : Fin 4)] := by
  decide
/-- This hardware's parameters, and others under ZERO; both byte indexes. -/
theorem test_witness_UpperHalfwords : hardware.rfHigh = .zero ∧
    ({ hardware with rk4Sel := fun k8 r => Vector.ofFn fun i => byteAt k8 ((i.val + r.val) % 8) } : Params).rfHigh = .zero ∧
    0 < 2 ∧ 1 < 2 := ⟨rfl, rfl, by decide, by decide⟩
/-- EDE: byte 5 of a full chunk, and both bytes of a chunk of 2; CTR: byte 5 of a full chunk, byte 0 of a chunk of 1. -/
theorem test_witness_DiffusionLight : (5 < 8 ∧ ((5 : Nat) = 0 ∨ (5 : Nat) = 1 ∨ (5 : Nat) = 4 ∨ (5 : Nat) = 5)) ∧
    (2 ≤ 2 ∧ 1 < 2) ∧ (1 + 4 < 8) ∧ 0 < 1 := by decide
theorem test_witness_CtrPayload : valid scheduleA 0 ∧
    (∀ c ∈ [((⟨1#32, 2#32⟩ : Block), 8), (⟨3#32, 4#32⟩, 1)], 1 ≤ c.2 ∧ c.2 ≤ 8) ∧
    [((⟨1#32, 2#32⟩ : Block), 8), (⟨3#32, 4#32⟩, 1)][1]? = some (⟨3#32, 4#32⟩, 1) ∧
    (∃ p, ctrChunks hardware 0 [(⟨1#32, 2#32⟩, 8), (⟨3#32, 4#32⟩, 1)] scheduleA = some p ∧ p.1[1]?.isSome = true) :=
  ⟨rfl, by decide, rfl, _, rfl, rfl⟩
theorem test_witness_ChunkOnly : (∀ j, j < 1 → byteAt ⟨0x00FFFFFF#32, 0xFFFFFFFF#32⟩ j = byteAt scheduleA.din j) ∧
    ∀ j, j < 8 → byteAt zeroBlock j = byteAt scheduleA.din j := by decide
theorem test_witness_KeyBytesPastLen : (Instr.keygen 1 4).wellFormed = true ∧ Instr.keygen 1 4 ≠ .zeroize ∧
    ∀ n, n < (keyOf 4#6 countingKey).mkLen.toNat → n < 32 →
      keyByte [0x00010203#32, 9#32, 9#32, 9#32, 9#32, 9#32, 9#32, 9#32] n = keyByte (keyOf 4#6 countingKey).mkey n := by
  decide

/-- Malformed accesses: a misaligned read, a misaligned write, a write with three strobes; and a read with strobes. -/
theorem test_witness_BadAccess : malformed ⟨false, 0x09#8, 0#32, 0#4⟩ ∧ malformed ⟨true, 0xFF#8, 0#32, 0xF#4⟩ ∧
    malformed ⟨true, 0x04#8, 0#32, 0x7#4⟩ ∧ (idleA ⟨false, 0x08#8, 0#32, 0x3#4⟩).turns = [.access ⟨false, 0x08#8, 0#32, 0x3#4⟩] :=
  ⟨.inl (by decide), .inl (by decide), .inr (by decide), rfl⟩
theorem test_witness_Reads : reads ⟨false, 0x00#8, 0#32, 0#4⟩ .id ∧ reads ⟨false, 0xFC#8, 0#32, 0#4⟩ .reserved :=
  ⟨⟨rfl, by decide, by decide⟩, ⟨rfl, by decide, by decide⟩⟩
/-- While BUSY = 1: a write to DIN, to a read-only register, to the last reserved offset and to STATUS, a malformed one, a
read. -/
theorem test_witness_WriteWhileBusy :
    (busyA [.access (fullWrite 0x10#8 1#32)]).status.busy = true ∧
    (busyA [.access (fullWrite 0x10#8 1#32)]).turns = [.access (fullWrite 0x10#8 1#32)] ∧
    writes (fullWrite 0x10#8 1#32) .dinHi 1#32 ∧ writes (fullWrite 0x18#8 1#32) .doutHi 1#32 ∧
    writes (fullWrite 0xFC#8 1#32) .reserved 1#32 ∧ Reg.reserved ≠ .status ∧ writes (fullWrite 0x08#8 4#32) .status 4#32 ∧
    malformed ⟨true, 0x10#8, 1#32, 0xE#4⟩ ∧ reads ⟨false, 0x08#8, 0#32, 0#4⟩ .status :=
  ⟨rfl, rfl, ⟨rfl, rfl, by decide, by decide, rfl⟩, ⟨rfl, rfl, by decide, by decide, rfl⟩,
    ⟨rfl, rfl, by decide, by decide, rfl⟩, by decide, ⟨rfl, rfl, by decide, by decide, rfl⟩, .inr (by decide),
    ⟨rfl, by decide, by decide⟩⟩
theorem test_witness_CmdWrite : (idleA (fullWrite 0x0C#8 3#32)).turns = [.access (fullWrite 0x0C#8 3#32)] ∧
    (idleA (fullWrite 0x0C#8 3#32)).status.busy = false ∧ writes (fullWrite 0x0C#8 3#32) .cmd 3#32 :=
  ⟨rfl, rfl, rfl, rfl, by decide, by decide, rfl⟩
theorem test_witness_StatusWrite : (idleA (fullWrite 0x08#8 6#32)).turns = [.access (fullWrite 0x08#8 6#32)] ∧
    writes (fullWrite 0x08#8 6#32) .status 6#32 := ⟨rfl, rfl, rfl, by decide, by decide, rfl⟩
/-- MK_LEN at the ends of its clauses: 32 is stored, 33 becomes 32 (R30). -/
theorem test_witness_WriteThenRead : scheduleA.status.busy = false ∧ Reg.mkLen ≠ .status ∧ Reg.mkLen ≠ .cmd ∧
    afterWrite 32 8 .mkLen 32#32 0#32 = 32#32 ∧ afterWrite 32 8 .mkLen 33#32 0#32 = 32#32 := by decide
/-- The idle state of a write; MK_LEN at the ends of its clauses. -/
theorem test_witness_WritesStore : scheduleA.status.busy = false ∧
    (hostWrite hardware .mkLen 32#32 scheduleA).mkLen = 32#6 ∧ (hostWrite hardware .mkLen 33#32 scheduleA).mkLen = 32#6 ∧
    (hostWrite hardware .mkLen 63#32 scheduleA).mkLen = 32#6 := by decide
/-- Full writes to the first and the last register of each writable group, to a read-only one and to the last reserved offset; the
premises on the state are test_witness_Turns, for every access. -/
theorem test_witness_WriteSteps : writes (fullWrite 0x04#8 1#32) .ctrl 1#32 ∧ writes (fullWrite 0x10#8 1#32) .dinHi 1#32 ∧
    writes (fullWrite 0x28#8 1#32) .ctrLo 1#32 ∧ writes (fullWrite 0x2C#8 33#32) .mkLen 33#32 ∧
    writes (fullWrite 0x30#8 1#32) (.mk 0) 1#32 ∧ writes (fullWrite 0x4C#8 1#32) (.mk 7) 1#32 ∧
    writes (fullWrite 0x80#8 1#32) (.sboxLo 0) 1#32 ∧ writes (fullWrite 0x9C#8 1#32) (.sboxHi 3) 1#32 ∧
    writes (fullWrite 0x6C#8 1#32) (.rkLo 3) 1#32 ∧ writes (fullWrite 0xFC#8 1#32) .reserved 1#32 ∧
    Reg.reserved ≠ .status := by
  refine ⟨?_, ?_, ?_, ?_, ?_, ?_, ?_, ?_, ?_, ?_, by decide⟩ <;>
    exact ⟨rfl, rfl, by decide, by decide +kernel, rfl⟩
/-- Through the machine's step: 32 is stored, 33 becomes 32 (R30), and a write to DIN_HI is not lost. -/
theorem test_write_steps_store : (write .mkLen 32#32 resetA).mkLen = 32#6 ∧ (write .mkLen 33#32 resetA).mkLen = 32#6 ∧
    (write .dinHi 5#32 resetA).din.hi = 5#32 ∧ (write .dinHi 5#32 resetA).lastResp = wrote := by decide
/-- `irq`: a pending command with IE = 1; a W1C of DONE; CTRL writes of both values; an issue; a dropped write. -/
theorem test_witness_Interrupt : ({ busyA [] with ie := true } : State).pending.isSome = true ∧
    ({ busyA [] with ie := true } : State).turns = [] ∧
    (writes (fullWrite 0x08#8 2#32) .status 2#32 ∧ (2#32).getLsbD 1 = true) ∧
    writes (fullWrite 0x04#8 0#32) .ctrl 0#32 ∧ writes (fullWrite 0x04#8 1#32) .ctrl 1#32 ∧
    (idleA (fullWrite 0x04#8 1#32)).status.busy = false ∧ writes (fullWrite 0x0C#8 0#32) .cmd 0#32 ∧
    (busyA [.access (fullWrite 0x04#8 0#32)]).status.busy = true :=
  ⟨rfl, rfl, ⟨⟨rfl, rfl, by decide, by decide, rfl⟩, by decide⟩, ⟨rfl, rfl, by decide, by decide, rfl⟩,
    ⟨rfl, rfl, by decide, by decide, rfl⟩, rfl, ⟨rfl, rfl, by decide, by decide, rfl⟩, rfl⟩
theorem test_witness_OperandsStay : (busyA [.access (fullWrite 0x14#8 9#32)]).turns = [.access (fullWrite 0x14#8 9#32)] ∧
    (busyA [.access (fullWrite 0x14#8 9#32)]).status.busy = true := ⟨rfl, rfl⟩
theorem test_witness_ResetValues : (∀ t, Reg.ctrHi ≠ .sboxLo t) ∧ (∀ t, Reg.ctrHi ≠ .sboxHi t) := by decide
/-- A reset edge with a pending command, without and with a read. -/
theorem test_witness_ResetEdge : (busyA [.reset none]).turns = [.reset none] ∧
    (busyA [.reset (some ⟨false, 0x00#8, 0#32, 0#4⟩)]).turns = [.reset (some ⟨false, 0x00#8, 0#32, 0#4⟩)] := ⟨rfl, rfl⟩
/-- A consistent state with a command pending, and its step. -/
theorem test_witness_StepKeeps : Consistent hardware (busyA []) ∧ ∃ t, step (busyA []) = .next t := ⟨by decide, _, rfl⟩
/-- The same on other parameters, and a slot and a key register that this core does not have. -/
theorem test_witness_SmallCore : Consistent smallCore (resetState smallCore) ∧
    (∃ t, stepWith smallCore (resetState smallCore) = .next t) ∧ 2 ∈ slotsRead (.ede 8) ∧ smallCore.rkSlots ≤ 2 ∧
    smallCore.rkSlots ≤ (3 : Fin 4).val ∧ smallCore.mkCap ≤ 4 * (4 : Fin 8).val ∧
    (resetState smallCore).status.busy = false := ⟨by decide, ⟨_, rfl⟩, by decide, by decide, by decide, by decide, rfl⟩
/-- ERR changes at a completion, at a W1C write, at a dropped write and at a reset edge. -/
theorem test_witness_ErrMoves : (∃ t, step (pendingWord 0x0000000A#32 resetA) = .next t ∧ t.status.err ≠ resetA.status.err) ∧
    (∃ t, step { withStatus true true .illegal resetA with turns := [.access (fullWrite 0x08#8 4#32)] } = .next t ∧
      t.status.err ≠ true) ∧
    (∃ t, step (busyA [.access (fullWrite 0x10#8 4#32)]) = .next t ∧ t.status.err ≠ false) ∧
    (∃ t, step { withStatus true true .illegal resetA with turns := [.reset none] } = .next t ∧ t.status.err ≠ true) :=
  ⟨⟨_, rfl, by decide⟩, ⟨_, rfl, by decide⟩, ⟨_, rfl, by decide⟩, ⟨_, rfl, by decide⟩⟩
/-- MK and MK_LEN writes; a step that changes the slots. -/
theorem test_witness_SlotWriters : writes (fullWrite 0x2C#8 0#32) .mkLen 0#32 ∧ writes (fullWrite 0x4C#8 5#32) (.mk 7) 5#32 ∧
    ∃ t, step (pendingWord 0x00000009#32 scheduleA) = .next t ∧ t.rk ≠ scheduleA.rk :=
  ⟨⟨rfl, rfl, by decide, by decide, rfl⟩, ⟨rfl, rfl, by decide, by decide, rfl⟩, _, rfl, by decide⟩

end Sys2Proof.Tests
end

section
/-! PROOF. What the parameters of 00_scope.md R7 bound: the model's hardware is the statements' hardware (O11), and what lies
past the last slot or the last key register is absent (O60). -/

namespace Sys2Proof.Proofs

open Sys2Proof.Machine Sys2Proof.Claims

/-! ### The statements' formulas are the model's operations -/

/-- Byte j of a register in R10's shift. -/
theorem wordByte_eq_shift (w : Word) (j : Nat) : wordByte w j = (w >>> (24 - 8 * j)).setWidth 8 := by
  apply BitVec.eq_of_toNat_eq
  simp [wordByte]

/-- Byte j of a block in R10's shifts is the model's field of the register. -/
theorem byteAt_eq_blockByte (b : Block) (j : Nat) (h : j < 8) : byteAt b j = blockByte b j := by
  unfold byteAt blockByte
  by_cases hj : j < 4
  · simp [wordByte_eq_shift, hj, Nat.mod_eq_of_lt hj]
  · have hmod : j % 4 = j - 4 := by omega
    simp [wordByte_eq_shift, hj, hmod]

/-- The four bytes that the statements spell out for R135 are `FIRST4`. -/
theorem first4_eq_bytes (k8 : Block) (r : Fin rounds) :
    first4 k8 r = #v[byteAt k8 0, byteAt k8 1, byteAt k8 2, byteAt k8 3] := by
  simp only [byteAt_eq_blockByte, Nat.reduceLT]
  rfl

theorem hwParams_eq_hardware : hwParams = hardware := by
  have hsel : first4 = hardware.rk4Sel := funext fun k8 => funext (first4_eq_bytes k8)
  rw [hwParams, hsel]
  rfl

/-- The completion that raises c, as the statements write it. -/
theorem raiseCmdError_eq_failed (c : ErrCode) (s : State) : raiseCmdError c s = failed c s := rfl

/-- Settles O11: the two descriptions of this hardware are one value, and the model's laws say the rest. -/
theorem execUsesTheHardwaresParameters : Obligations.ExecUsesTheHardwaresParameters := by
  unfold Obligations.ExecUsesTheHardwaresParameters
  rw [← hwParams_eq_hardware]
  exact ⟨exec_eq_execWith, step_eq_stepWith, reset_eq⟩

/-! ### Slots past the last -/

/-- VALID has its lowest bits set, one for each round key that has a slot (R34, R111). -/
theorem slotValid_iff_of_scheduleOk (p : Params) (s : State) (h : ScheduleOk p s) (k : Nat) :
    slotValid s k = true ↔ k < min s.rkinfo.rc.toNat p.rkSlots := by
  obtain ⟨-, -, -, -, hvalid, -, -⟩ := h
  rw [slotValid, ← BitVec.testBit_toNat, hvalid, Nat.testBit_two_pow_sub_one, decide_eq_true_iff]

/-- A command whose list of slots holds a missing one raises NO_KEY (R200), whatever it would have computed. -/
theorem execWith_of_missing (p : Params) (i : Instr) (s : State) (k : Nat) (hk : k ∈ slotsRead i)
    (h : slotValid s k = false) : execWith p i s = .next (failed .noKey s) := by
  rw [← raiseCmdError_eq_failed]
  cases i
  case nop | sbox | ctrinc | keygen | keygenEde | keygenCtr | zeroize => exact absurd hk List.not_mem_nil
  case roundf | fenc | fdec | ede | ctr => exact congrArg _ (withKeys_of_missing _ _ s k hk h)

theorem slotKey_of_length_le (s : State) (k : Nat) (h : s.rk.length ≤ k) : slotKey s k = zeroBlock :=
  List.getD_eq_default _ _ h

/-! ### Key registers past the last -/

/-- Register w lies past the buffer exactly when its first byte, byte 4w, does (R31). -/
theorem keyRegs_le_iff (p : Params) (w : Nat) : p.keyRegs ≤ w ↔ p.mkCap ≤ 4 * w := by
  unfold Params.keyRegs
  omega

theorem keyReg_of_length_le (s : State) (w : Nat) (h : s.mkey.length ≤ w) : keyReg s w = 0#32 :=
  List.getD_eq_default _ _ h

/-- With BUSY = 0 a host write is the register write, STATUS or not (R204). -/
theorem hostWrite_of_idle (p : Params) (r : Reg) (v : Word) (s : State) (h : s.status.busy = false) :
    hostWrite p r v s = writeReg p r v s := by
  simp [hostWrite, h]

theorem writeReg_mk_of_length_le (p : Params) (w : Fin mkRegs) (v : Word) (s : State) (h : s.mkey.length ≤ w.val) :
    writeReg p (.mk w) v s = s := by
  simp [writeReg, List.set_eq_of_length_le h]

/-- Settles O60: the invariant sizes VALID, the slots and the key buffer, so that what lies past them is not there. -/
theorem slotsAndKeyRegistersPastTheLastAreAbsent : Obligations.SlotsAndKeyRegistersPastTheLastAreAbsent := by
  rintro p s ⟨-, -, ⟨hkey, hrk⟩, -, hschedule⟩
  refine ⟨fun i k hk hpast => ?noKey, fun k hpast => ?slot, fun w hpast => ?keyRegister⟩
  case noKey =>
    have hmissing : ¬ slotValid s k = true := by
      rw [slotValid_iff_of_scheduleOk p s hschedule]
      omega
    exact execWith_of_missing p i s k hk (Bool.eq_false_of_not_eq_true hmissing)
  case slot =>
    have hzero : slotKey s k.val = zeroBlock := slotKey_of_length_le s k.val (hrk ▸ hpast)
    exact ⟨congrArg Block.hi hzero, congrArg Block.lo hzero⟩
  case keyRegister =>
    have habsent : s.mkey.length ≤ w.val := hkey ▸ (keyRegs_le_iff p w.val).mpr hpast
    refine ⟨keyReg_of_length_le s w.val habsent, fun v hidle => ?_⟩
    rw [hostWrite_of_idle p _ v s hidle, writeReg_mk_of_length_le p w v s habsent]

end Sys2Proof.Proofs
end

section
/-! PROOF. A command's completion in two parts, its results and then the flags of R204: which registers it may write (O25), and
that it reads no key byte past MK_LEN (O40). -/

namespace Sys2Proof.Proofs

open Sys2Proof.Machine Sys2Proof.Claims

/-! ### Decoded commands are well formed -/

theorem inRange_iff (hi n : Nat) : inRange hi n = true ↔ 1 ≤ n ∧ n ≤ hi := by
  simp [inRange]

/-- A field of k bits plus one is in 1..2^k (R83). -/
theorem inRange_field {k : Nat} (hi : Nat) (x : BitVec k) (h : 2 ^ k ≤ hi) : inRange hi (x.toNat + 1) = true :=
  (inRange_iff hi _).mpr ⟨Nat.le_add_left 1 _, Nat.le_trans x.isLt h⟩

theorem inRange_lenField (w : Word) : inRange 8 (lenField w) = true := inRange_field 8 _ (by decide)
theorem inRange_rcField (w : Word) : inRange 4 (rcField w) = true := inRange_field 4 _ (by decide)
theorem inRange_bsField (w : Word) : inRange 8 (bsField w) = true := inRange_field 8 _ (by decide)

/-- Every row of the opcode map builds a command with its operands in range, from any word. -/
theorem opcodeRows_build_wellFormed (w : Word) : ∀ r ∈ opcodeRows, (r.build w).wellFormed = true := by
  simp [opcodeRows, Instr.wellFormed, inRange_lenField, inRange_rcField, inRange_bsField]

/-- The operands of a decoded command are in range (R83). -/
theorem wellFormed_of_decode (w : Word) (i : Instr) (h : decode w = some i) : i.wellFormed = true := by
  obtain ⟨r, hr, rfl⟩ := Option.map_eq_some_iff.mp h
  exact opcodeRows_build_wellFormed w r (List.mem_of_find?_eq_some hr)

/-! ### The results of a command -/

/-- The state with the command's results, before the completion's flags (R204): what the command writes when it succeeds. -/
def commandResults (p : Params) (i : Instr) (s : State) : State :=
  match i with
  | .nop => s
  | .sbox t v => { s with res := (sboxLookup s.sbox t v).setWidth 32 }
  | .roundf k r => { s with res := roundFn p.rfHigh s.sbox s.din.lo (p.rk4Sel (slotKey s k.val) r) }
  | .fenc k => { s with dout := encBlock p s.sbox (slotKey s k.val) s.din }
  | .fdec k => { s with dout := decBlock p s.sbox (slotKey s k.val) s.din }
  | .ede len => { s with dout := ede3 p s.sbox (slotKey s 0) (slotKey s 1) (slotKey s 2) len s.din }
  | .ctr k len =>
    { s with
      dout := keepFirst len (xorBlock s.din (encBlock p s.sbox (slotKey s k.val) s.ctr))
      ctr := inc64 s.ctr }
  | .ctrinc => { s with ctr := inc64 s.ctr }
  | .keygen rc bs => loadSchedule p ((List.range rc).map (keySlice s.mkey bs)) rc bs s
  | .keygenEde => loadSchedule p ((List.range edeSlots).map (keySlice s.mkey blkBytes)) edeSlots blkBytes s
  | .keygenCtr => loadSchedule p ((List.range ctrSlots).map (keySlice s.mkey blkBytes)) ctrSlots blkBytes s
  | .zeroize => clearSecrets p s

/-- The key bytes that a command needs (R111, R113, R114); 0 for a command that reads no master key. -/
def keyBytesNeeded (i : Instr) : Nat :=
  match i with
  | .keygen rc bs => rc * bs
  | .keygenEde => edeKeyMin
  | .keygenCtr => ctrKeyMin
  | _ => 0

/-- A completion writes the command's results, with a key long enough, or raises NO_KEY, or is a KEYGEN that failed. -/
theorem execWith_outcome (p : Params) (i : Instr) (s t : State) (h : execWith p i s = .next t) :
    (keyBytesNeeded i ≤ keyLength s ∧ t = completeOk (commandResults p i s)) ∨ t = raiseCmdError .noKey s ∨
    (isKeygen i = true ∧ ∃ c, c ≠ .noError ∧ t = keygenFail p c s) := by
  have keygen (need c rc bs) (hn : rc * bs ≤ need) (hc : c ≠ .noError) (ht : runKeygen p need c rc bs s = t) :
      (need ≤ keyLength s ∧ t = completeOk (loadSchedule p ((List.range rc).map (keySlice s.mkey bs)) rc bs s)) ∨
      ∃ c, c ≠ .noError ∧ t = keygenFail p c s := by
    rcases runKeygen_cases p need c rc bs s hn with ⟨hlong, hr⟩ | ⟨-, hr⟩
    · exact .inl ⟨hlong, ht ▸ hr⟩
    · exact .inr ⟨c, hc, ht ▸ hr⟩
  cases i <;> simp only [execWith, Host.Outcome.next.injEq, execNop, execSbox, execCtrinc] at h
  case nop | sbox | ctrinc | zeroize => exact .inl ⟨Nat.zero_le _, h.symm⟩
  case roundf | fenc | fdec | ede | ctr =>
    subst h
    exact (withKeys_cases _ _ s).imp (fun hr => ⟨Nat.zero_le _, hr⟩) .inl
  case keygen rc bs =>
    exact (keygen _ .rkCount rc bs (Nat.le_refl _) (by decide) h).imp id fun hf => .inr ⟨rfl, hf⟩
  case keygenEde =>
    exact (keygen _ .keyLen edeSlots blkBytes (by decide) (by decide) h).imp id fun hf => .inr ⟨rfl, hf⟩
  case keygenCtr =>
    exact (keygen _ .keyLen ctrSlots blkBytes (by decide) (by decide) h).imp id fun hf => .inr ⟨rfl, hf⟩

/-! ### What the results leave unchanged -/

@[simp] theorem commandResults_status (p : Params) (i : Instr) (s : State) :
    (commandResults p i s).status = s.status := by cases i <;> rfl
@[simp] theorem commandResults_sbox (p : Params) (i : Instr) (s : State) :
    (commandResults p i s).sbox = s.sbox := by cases i <;> rfl
@[simp] theorem commandResults_ie (p : Params) (i : Instr) (s : State) :
    (commandResults p i s).ie = s.ie := by cases i <;> rfl
@[simp] theorem commandResults_cmd (p : Params) (i : Instr) (s : State) :
    (commandResults p i s).cmd = s.cmd := by cases i <;> rfl

/-- The operands of a command are kept, ZEROIZE aside (R26, R30, R31). -/
theorem commandResults_operands (p : Params) (i : Instr) (s : State) (h : i ≠ .zeroize) :
    (commandResults p i s).din = s.din ∧ (commandResults p i s).mkey = s.mkey ∧
      (commandResults p i s).mkLen = s.mkLen := by
  cases i
  case zeroize => exact absurd rfl h
  all_goals exact ⟨rfl, rfl, rfl⟩

/-- The commands that write DOUT (R27). -/
theorem commandResults_dout_ne (p : Params) (i : Instr) (s : State) (h : (commandResults p i s).dout ≠ s.dout) :
    (∃ k, i = .fenc k) ∨ (∃ k, i = .fdec k) ∨ (∃ n, i = .ede n) ∨ (∃ k n, i = .ctr k n) ∨ i = .zeroize := by
  cases i
  case fenc | fdec | ede | ctr | zeroize => simp
  all_goals exact absurd rfl h

/-- The commands that write RES (R28). -/
theorem commandResults_res_ne (p : Params) (i : Instr) (s : State) (h : (commandResults p i s).res ≠ s.res) :
    (∃ n v, i = .sbox n v) ∨ (∃ k r, i = .roundf k r) ∨ i = .zeroize := by
  cases i
  case sbox | roundf | zeroize => simp
  all_goals exact absurd rfl h

/-- The commands that write CTR (R29). -/
theorem commandResults_ctr_ne (p : Params) (i : Instr) (s : State) (h : (commandResults p i s).ctr ≠ s.ctr) :
    (∃ k n, i = .ctr k n) ∨ i = .ctrinc := by
  cases i
  case ctr | ctrinc => simp
  all_goals exact absurd rfl h

/-- The commands that do not write the schedule keep it (R33, R34). -/
theorem commandResults_schedule (p : Params) (i : Instr) (s : State) (hk : isKeygen i = false) (hz : i ≠ .zeroize) :
    (commandResults p i s).rk = s.rk ∧ (commandResults p i s).rkinfo = s.rkinfo := by
  cases i
  case keygen | keygenEde | keygenCtr => cases hk
  case zeroize => exact absurd rfl hz
  all_goals exact ⟨rfl, rfl⟩

/-- A completion that changes the schedule is that of a KEYGEN form or of ZEROIZE (R32, R33, R34). -/
theorem execWith_schedule_ne (p : Params) (i : Instr) (s t : State) (h : execWith p i s = .next t)
    (hne : t.rk ≠ s.rk ∨ t.rkinfo ≠ s.rkinfo) : isKeygen i = true ∨ i = .zeroize := by
  by_contra! hother
  obtain ⟨hrk, hinfo⟩ := commandResults_schedule p i s (Bool.eq_false_of_not_eq_true hother.1) hother.2
  rcases execWith_outcome p i s t h with ⟨-, rfl⟩ | rfl | ⟨hk, -⟩
  · simp [hrk, hinfo] at hne
  · simp at hne
  · exact hother.1 hk

/-- Settles O25: the flags and KFAIL touch none of these registers but the schedule, and the results are those of the command. -/
theorem completionWritesOnlyItsRegisters : Obligations.CompletionWritesOnlyItsRegisters := by
  intro i s t h
  rw [exec_eq_execWith] at h
  have hschedule := execWith_schedule_ne hwParams i s t h
  rcases execWith_outcome hwParams i s t h with ⟨-, rfl⟩ | rfl | ⟨-, c, -, rfl⟩
  case inl =>
    exact ⟨commandResults_sbox _ i s, commandResults_ie _ i s, commandResults_cmd _ i s,
      commandResults_operands _ i s, commandResults_dout_ne _ i s, commandResults_res_ne _ i s,
      commandResults_ctr_ne _ i s, hschedule⟩
  all_goals
    exact ⟨rfl, rfl, rfl, fun _ => ⟨rfl, rfl, rfl⟩, fun hne => absurd rfl hne, fun hne => absurd rfl hne,
      fun hne => absurd rfl hne, hschedule⟩

/-! ### The key bytes that a command reads -/

/-- MK[n] in the statements' formula (R31). -/
theorem keyByte_eq_mkByte (mk : List Word) (n : Nat) : keyByte mk n = mkByte mk n := by
  simp [keyByte, mkByte, wordByte_eq_shift]

/-- KSLICE reads only the bytes below rc * bs (R110). -/
theorem slices_congr (mk mk' : List Word) (rc bs : Nat) (h : ∀ n, n < rc * bs → mkByte mk n = mkByte mk' n) :
    (List.range rc).map (keySlice mk bs) = (List.range rc).map (keySlice mk' bs) := by
  refine List.map_congr_left fun i hi => congrArg blockOf (funext fun j => ?_)
  have hbelow (hj : j < bs) : i * bs + j < rc * bs := by
    have : (i + 1) * bs ≤ rc * bs := Nat.mul_le_mul_right bs (List.mem_range.mp hi)
    linarith [Nat.succ_mul i bs]
  split
  · next hj => exact h _ (hbelow hj)
  · rfl

/-- The slot check does not read the master key. -/
theorem withKeys_mkey (ks : List Nat) (f : State → State) (s : State) (mk : List Word)
    (hf : f { s with mkey := mk } = { f s with mkey := mk }) :
    withKeys ks f { s with mkey := mk } = { withKeys ks f s with mkey := mk } := by
  have hvalid : slotValid { s with mkey := mk } = slotValid s := rfl
  unfold withKeys
  rw [hf, hvalid]
  split <;> rfl

/-- A KEYGEN reads only the bytes below its count times its size, and none when it fails. -/
theorem runKeygen_mkey (p : Params) (need : Nat) (c : ErrCode) (rc bs : Nat) (s : State) (mk : List Word)
    (hn : rc * bs ≤ need) (h : ∀ n, n < rc * bs → need ≤ keyLength s → mkByte mk n = mkByte s.mkey n) :
    runKeygen p need c rc bs { s with mkey := mk } = { runKeygen p need c rc bs s with mkey := mk } := by
  rcases Nat.lt_or_ge (keyLength s) need with hshort | hlong
  · rw [runKeygen_of_short p need c rc bs s hshort, runKeygen_of_short p need c rc bs { s with mkey := mk } hshort]
    rfl
  · rw [runKeygen_of_long p need c rc bs s hlong hn, runKeygen_of_long p need c rc bs { s with mkey := mk } hlong hn,
      slices_congr mk s.mkey rc bs fun n hlt => h n hlt hlong]
    rfl

/-- Settles O40: only the KEYGEN forms read the master key, and each checks that MK_LEN covers its slices. -/
theorem keyBytesPastLenAreNeverRead : Obligations.KeyBytesPastLenAreNeverRead := by
  intro i s mk hwf hz hagree
  have hbelow (n need : Nat) (hlt : n < need) (h32 : need ≤ 32) (hlong : need ≤ keyLength s) :
      mkByte mk n = mkByte s.mkey n := by
    rw [← keyByte_eq_mkByte, ← keyByte_eq_mkByte]
    exact hagree n (Nat.lt_of_lt_of_le hlt hlong) (Nat.lt_of_lt_of_le hlt h32)
  cases i
  case nop | sbox | ctrinc => exact ⟨_, rfl, rfl⟩
  case roundf | fenc | fdec | ede | ctr => exact ⟨_, rfl, congrArg _ (withKeys_mkey _ _ s mk rfl)⟩
  case keygen rc bs =>
    simp only [Instr.wellFormed, Bool.and_eq_true, inRange_iff] at hwf
    have h32 : rc * bs ≤ 32 := Nat.mul_le_mul hwf.1.2 hwf.2.2
    exact ⟨_, rfl, congrArg _ (runKeygen_mkey _ _ _ _ _ s mk (Nat.le_refl _) fun n hlt => hbelow n _ hlt h32)⟩
  case keygenEde =>
    exact ⟨_, rfl, congrArg _ (runKeygen_mkey _ _ _ _ _ s mk (by decide) fun n hlt => hbelow n 24 hlt (by decide))⟩
  case keygenCtr =>
    exact ⟨_, rfl, congrArg _ (runKeygen_mkey _ _ _ _ _ s mk (by decide) fun n hlt => hbelow n 16 hlt (by decide))⟩
  case zeroize => exact absurd rfl hz

end Sys2Proof.Proofs
end

section
/-! PROOF. The invariant of Safety.lean: the reset state has it (O56) and every step keeps it (O57). -/

namespace Sys2Proof.Proofs

open Sys2Proof.Machine Sys2Proof.Claims

/-! ### What the invariant's parts rest on -/

/-- The part of the invariant that the key buffer, MK_LEN and the schedule bear on. -/
abbrev StoreOk (p : Params) (s : State) : Prop := ShapeOk p s ∧ KeyLengthOk p s ∧ ScheduleOk p s

/-- A cleared schedule is that of no KEYGEN (R34, R112). -/
theorem scheduleOk_of_cleared (p : Params) (s : State) (hrk : s.rk = List.replicate p.rkSlots zeroBlock)
    (hinfo : s.rkinfo = ⟨0#4, 0#4, 0#3⟩) : ScheduleOk p s := by
  have hslot (k : Nat) : slotKey s k = zeroBlock := by rw [slotKey, hrk, slotKey_cleared]
  simp [ScheduleOk, hslot, hinfo, blockByte_zeroBlock]

/-- The slices of a key, with the record of their count and size, are the schedule of one KEYGEN (R34, R110, R111). -/
theorem scheduleOk_loadSchedule (p : Params) (mk : List Word) (rc bs : Nat) (s : State) (hrc : 1 ≤ rc ∧ rc ≤ 4)
    (hbs : 1 ≤ bs ∧ bs ≤ 8) (hcap : rc * bs ≤ p.mkCap) :
    ScheduleOk p (loadSchedule p ((List.range rc).map (keySlice mk bs)) rc bs s) := by
  have hrcNat : (BitVec.ofNat 3 rc).toNat = rc := by rw [BitVec.toNat_ofNat]; omega
  have hbsNat : (BitVec.ofNat 4 bs).toNat = bs := by rw [BitVec.toNat_ofNat]; omega
  have hvalid : (BitVec.ofNat 4 (2 ^ min rc p.rkSlots - 1)).toNat = 2 ^ min rc p.rkSlots - 1 := by
    have hle : 2 ^ min rc p.rkSlots ≤ 2 ^ 4 := Nat.pow_le_pow_right (by decide) (by omega)
    rw [BitVec.toNat_ofNat]
    omega
  have hrcZero : BitVec.ofNat 3 rc ≠ 0#3 := fun h => by simp [h] at hrcNat; omega
  have hbsZero : BitVec.ofNat 4 bs ≠ 0#4 := fun h => by simp [h] at hbsNat; omega
  have hslot (k : Fin p.rkSlots) :
      slotKey (loadSchedule p ((List.range rc).map (keySlice mk bs)) rc bs s) k =
        if k.val < rc then keySlice mk bs k.val else zeroBlock := by
    rw [loadSchedule_slot, if_pos k.isLt, slices_getD]
  simp only [ScheduleOk, loadSchedule_rkinfo, hrcNat, hbsNat, hvalid, hrcZero, hbsZero, hslot]
  refine ⟨hrc.2, hbs.2, hcap, trivial, trivial, fun k hk => if_neg (Nat.not_lt.mpr hk), fun k j hj => ?_⟩
  split
  · rw [keySlice, blockByte_blockOf _ _ j.isLt, if_neg (Nat.not_lt.mpr hj)]
  · exact blockByte_zeroBlock j

/-! ### Reset -/

theorem consistent_resetState (p : Params) : Consistent p (resetState p) :=
  ⟨by simp [LatchOk], by simp [ErrorOk], by simp [ShapeOk], by simp [KeyLengthOk], scheduleOk_of_cleared p _ rfl rfl⟩

theorem consistent_resetEdge (p : Params) (a : Option BusAccess) (s : State) : Consistent p (resetEdge p a s) := by
  cases a <;> exact consistent_resetState p

/-- Settles O56: the literal parameters of the statements are this hardware's, and reset is consistent under all. -/
theorem resetIsConsistent : Obligations.ResetIsConsistent := by
  unfold Obligations.ResetIsConsistent
  rw [reset_eq, ← hwParams_eq_hardware]
  exact ⟨consistent_resetState hwParams, consistent_resetState⟩

/-! ### The core's step -/

/-- The results of a command keep the store: a KEYGEN's slices fit the key that it checked (R111, R113, R114). -/
theorem storeOk_commandResults (p : Params) (i : Instr) (s : State) (hwf : i.wellFormed = true)
    (hlong : keyBytesNeeded i ≤ keyLength s) (h : StoreOk p s) : StoreOk p (commandResults p i s) := by
  obtain ⟨⟨hkey, hrk⟩, hlen, hschedule⟩ := h
  have hcap : keyBytesNeeded i ≤ p.mkCap := Nat.le_trans hlong hlen
  cases i
  case keygen rc bs =>
    simp only [Instr.wellFormed, Bool.and_eq_true, inRange_iff] at hwf
    exact ⟨⟨hkey, scheduleSlots_length _ _⟩, hlen, scheduleOk_loadSchedule p _ rc bs s hwf.1 hwf.2 hcap⟩
  case keygenEde =>
    exact ⟨⟨hkey, scheduleSlots_length _ _⟩, hlen, scheduleOk_loadSchedule p _ 3 8 s (by decide) (by decide) hcap⟩
  case keygenCtr =>
    exact ⟨⟨hkey, scheduleSlots_length _ _⟩, hlen, scheduleOk_loadSchedule p _ 2 8 s (by decide) (by decide) hcap⟩
  case zeroize =>
    exact ⟨⟨List.length_replicate, List.length_replicate⟩, Nat.zero_le _, scheduleOk_of_cleared p _ rfl rfl⟩
  all_goals exact ⟨⟨hkey, hrk⟩, hlen, hschedule⟩

theorem storeOk_kfail (p : Params) (s : State) (h : StoreOk p s) : StoreOk p (kfail p s) :=
  ⟨⟨h.1.1, List.length_replicate⟩, h.2.1, scheduleOk_of_cleared p _ rfl rfl⟩

/-- A completion without an error keeps ERR with ERRCODE and empties the latch (R204). -/
theorem consistent_completeOk (p : Params) (s : State) (herr : ErrorOk s) (hstore : StoreOk p s) :
    Consistent p (completeOk s) :=
  ⟨by simp [LatchOk], herr, hstore⟩

/-- A completion that raises a code sets ERR with it and empties the latch (R201). -/
theorem consistent_raiseCmdError (p : Params) (c : ErrCode) (s : State) (hc : c ≠ .noError) (hstore : StoreOk p s) :
    Consistent p (raiseCmdError c s) :=
  ⟨by simp [LatchOk], by simp [ErrorOk, hc], hstore⟩

theorem consistent_execWith (p : Params) (i : Instr) (s t : State) (hwf : i.wellFormed = true) (hs : Consistent p s)
    (h : execWith p i s = .next t) : Consistent p t := by
  obtain ⟨-, herr, hstore⟩ := hs
  rcases execWith_outcome p i s t h with ⟨hlong, rfl⟩ | rfl | ⟨-, c, hc, rfl⟩
  · exact consistent_completeOk p _ (by simpa [ErrorOk] using herr) (storeOk_commandResults p i s hwf hlong hstore)
  · exact consistent_raiseCmdError p .noKey s (by decide) hstore
  · exact consistent_raiseCmdError p c _ hc (storeOk_kfail p s hstore)

theorem consistent_coreStep (p : Params) (s t : State) (hs : Consistent p s)
    (h : coreStep (execWith p) s = .next t) : Consistent p t := by
  rcases coreStep_cases (execWith p) s _ h with ⟨-, ht⟩ | ⟨w, -, -, ht⟩ | ⟨w, i, -, hd, ht⟩
  · exact Host.Outcome.next.inj ht ▸ hs
  · exact Host.Outcome.next.inj ht ▸ consistent_raiseCmdError p .illegal s (by decide) hs.2.2
  · exact consistent_execWith p i s t (wellFormed_of_decode w i hd) hs ht.symm

/-! ### The host's accesses -/

/-- A write accepted with BUSY = 0: an issue sets BUSY with the latch, and the buffer and its length keep their bounds. -/
theorem consistent_writeReg (p : Params) (r : Reg) (v : Word) (s : State) (hr : r ≠ .status) (hs : Consistent p s) :
    Consistent p (writeReg p r v s) := by
  obtain ⟨hlatch, herr, ⟨hkey, hrk⟩, hlen, hschedule⟩ := hs
  cases r
  case status => exact absurd rfl hr
  case cmd => exact ⟨by simp [LatchOk, writeReg], herr, ⟨hkey, hrk⟩, hlen, hschedule⟩
  case mkLen => exact ⟨hlatch, herr, ⟨hkey, hrk⟩, mkLenLegal_le p.mkCap v, hschedule⟩
  case mk w => exact ⟨hlatch, herr, ⟨List.length_set.trans hkey, hrk⟩, hlen, hschedule⟩
  all_goals exact ⟨hlatch, herr, ⟨hkey, hrk⟩, hlen, hschedule⟩

/-- A dropped write sets ERR with its code, and a STATUS write clears the two together (R205, R208). -/
theorem consistent_hostWrite (p : Params) (r : Reg) (v : Word) (s : State) (hs : Consistent p s) :
    Consistent p (hostWrite p r v s) := by
  rcases hostWrite_cases p r v s with ⟨-, -, h⟩ | ⟨-, h⟩ | ⟨-, hr, h⟩ <;> rw [h]
  case inr.inr => exact consistent_writeReg p r v s hr hs
  all_goals obtain ⟨⟨hbusy, hcmd, hdone⟩, herr, hstore⟩ := hs
  case inl => exact ⟨⟨hbusy, hcmd, hdone⟩, by simp [ErrorOk], hstore⟩
  case inr.inl =>
    refine ⟨⟨hbusy, hcmd, fun hb => ?_⟩, ?_, hstore⟩
    · simp [hdone hb]
    · simp only [ErrorOk, writeStatus_status, statusW1C_err, statusW1C_errcode]
      split
      · simp
      · exact herr

theorem consistent_hostAccess (p : Params) (a : BusAccess) (s : State) (hs : Consistent p s) :
    Consistent p (hostAccess p a s) := by
  rcases hostAccess_cases p a s with ⟨-, h⟩ | ⟨-, -, h⟩ | ⟨-, -, h⟩ <;> rw [h]
  · exact hs
  · exact consistent_hostWrite p _ _ s hs
  · exact hs

/-! ### The step -/

theorem consistent_stepWith (p : Params) (s t : State) (hs : Consistent p s) (h : stepWith p s = .next t) :
    Consistent p t := by
  rcases stepWith_cases p s _ h with ⟨-, ht⟩ | ⟨rest, -, ht⟩ | ⟨a, rest, -, ht⟩ | ⟨a, rest, -, ht⟩
  · exact consistent_coreStep p s t hs ht.symm
  · exact consistent_coreStep p { s with turns := rest } t hs ht.symm
  · exact Host.Outcome.next.inj ht ▸ consistent_hostAccess p a { s with turns := rest } hs
  · exact Host.Outcome.next.inj ht ▸ consistent_resetEdge p a { s with turns := rest }

/-- Settles O57: each of a step's four moves keeps the invariant, under every value of the parameters. -/
theorem everyStepKeepsConsistent : Obligations.EveryStepKeepsConsistent := by
  refine ⟨fun s t hs h => ?_, consistent_stepWith⟩
  rw [step_eq_stepWith, hwParams_eq_hardware] at h
  exact consistent_stepWith hardware s t hs h

end Sys2Proof.Proofs
end

section
/-! PROOF. The register map (O49), what the registers show in every state (O47, O50, O51) and after reset (O54). -/

namespace Sys2Proof.Proofs

open Sys2Proof.Machine Sys2Proof.Claims

/-! ### The register map -/

/-- The offsets of the numbered registers (R31, R33, R36). -/
theorem offsetOf_mk_toNat (w : Fin 8) : (offsetOf (.mk w)).toNat = 0x30 + 4 * w.val := by
  revert w; decide

theorem offsetOf_slot_toNat (k : Fin 4) :
    (offsetOf (.rkHi k)).toNat = 0x50 + 8 * k.val ∧ (offsetOf (.rkLo k)).toNat = 0x54 + 8 * k.val ∧
      (offsetOf (.sboxLo k)).toNat = 0x80 + 8 * k.val ∧ (offsetOf (.sboxHi k)).toNat = 0x84 + 8 * k.val := by
  revert k; decide

/-- The offsets of the key registers name them (R31). -/
theorem regAt_of_key (off : BitVec 8) (w : Fin 8) (h : off.toNat = 0x30 + 4 * w.val) : regAt off = .mk w := by
  have hw : w.val < 8 := w.isLt
  have hindex : (off.toNat - 0x30) / 4 = w.val := by omega
  have hlow : ¬ off.toNat < 0x30 := by omega
  have hhigh : off.toNat < 0x50 := by omega
  simp [regAt, hindex, hlow, hhigh]

/-- The offsets of the slots' registers name them (R33). -/
theorem regAt_of_slot (off : BitVec 8) (k : Fin 4) (j : Nat) (hj : j < 8) (h : off.toNat = 0x50 + 8 * k.val + j) :
    regAt off = if j < 4 then .rkHi k else .rkLo k := by
  have hk : k.val < 4 := k.isLt
  have hindex : (off.toNat - 0x50) / 8 = k.val := by omega
  have hhalf : (off.toNat - 0x50) % 8 = j := by omega
  have hlow : ¬ off.toNat < 0x30 ∧ ¬ off.toNat < 0x50 := by omega
  have hhigh : off.toNat < 0x70 := by omega
  simp [regAt, hindex, hhalf, hlow, hhigh]

/-- The offsets of the tables' registers name them (R36). -/
theorem regAt_of_table (off : BitVec 8) (t : Fin 4) (j : Nat) (hj : j < 8) (h : off.toNat = 0x80 + 8 * t.val + j) :
    regAt off = if j < 4 then .sboxLo t else .sboxHi t := by
  have ht : t.val < 4 := t.isLt
  have hindex : (off.toNat - 0x80) / 8 = t.val := by omega
  have hhalf : (off.toNat - 0x80) % 8 = j := by omega
  have hlow : ¬ off.toNat < 0x30 ∧ ¬ off.toNat < 0x50 ∧ ¬ off.toNat < 0x70 ∧ ¬ off.toNat < 0x74 ∧
      ¬ off.toNat < 0x80 := by omega
  have hhigh : off.toNat < 0xA0 := by omega
  simp [regAt, hindex, hhalf, hlow, hhigh]

/-- A register is the one at its offset (R20). -/
theorem regAt_offsetOf (r : Reg) : regAt (offsetOf r) = r := by
  cases r
  case mk w => exact regAt_of_key _ w (offsetOf_mk_toNat w)
  case rkHi k =>
    obtain ⟨hoff, -, -, -⟩ := offsetOf_slot_toNat k
    exact regAt_of_slot _ k 0 (by decide) hoff
  case rkLo k =>
    obtain ⟨-, hoff, -, -⟩ := offsetOf_slot_toNat k
    exact regAt_of_slot _ k 4 (by decide) (by omega)
  case sboxLo t =>
    obtain ⟨-, -, hoff, -⟩ := offsetOf_slot_toNat t
    exact regAt_of_table _ t 0 (by decide) hoff
  case sboxHi t =>
    obtain ⟨-, -, -, hoff⟩ := offsetOf_slot_toNat t
    exact regAt_of_table _ t 4 (by decide) (by omega)
  all_goals rfl

/-- The reserved offsets (R20, R35). -/
theorem regAt_eq_reserved_iff (off : BitVec 8) :
    regAt off = .reserved ↔ (0x74 ≤ off.toNat ∧ off.toNat < 0x80) ∨ 0xA0 ≤ off.toNat := by
  unfold regAt
  by_cases hlow : off.toNat < 0x30
  · have hnot : ¬ ((0x74 ≤ off.toNat ∧ off.toNat < 0x80) ∨ 0xA0 ≤ off.toNat) := by omega
    simp only [hlow, if_true, hnot, iff_false]
    split <;> simp
  · simp only [hlow, if_false]
    split_ifs <;> simp <;> omega

/-- Settles O49: the literal offsets by evaluation, the map's two directions by the lemmas above. -/
theorem registerMapOffsets : Obligations.RegisterMapOffsets :=
  ⟨by decide, regAt_offsetOf, regAt_eq_reserved_iff, offsetOf_mk_toNat, offsetOf_slot_toNat⟩

/-! ### Fields in the registers that pack them -/

/-- A field of n bits at bit lo lies in bits lo..lo+n-1. -/
theorem field_getLsbD {n : Nat} (x : BitVec n) (lo i : Nat) :
    (x.setWidth 32 <<< lo).getLsbD i = (decide (i < 32) && decide (lo ≤ i) && x.getLsbD (i - lo)) := by
  rw [BitVec.getLsbD_shiftLeft, BitVec.getLsbD_setWidth]
  by_cases h : lo ≤ i
  · by_cases hi : i < 32
    · have hin : i - lo < 32 := by omega
      simp [h, hi, hin]
    · simp [hi]
  · simp [h]

/-- A field reads 0 under a mask with none of its bits. -/
theorem field_and_mask {n : Nat} (x : BitVec n) (lo : Nat) (m : Word) (h : ∀ i < n, m.getLsbD (lo + i) = false) :
    x.setWidth 32 <<< lo &&& m = 0#32 := by
  refine BitVec.eq_of_getLsbD_eq fun i _ => ?_
  rw [BitVec.getLsbD_and, field_getLsbD, BitVec.getLsbD_zero]
  by_cases hin : lo ≤ i ∧ i < lo + n
  · have hm : m.getLsbD i = false := by simpa [Nat.add_sub_cancel' hin.1] using h (i - lo) (by omega)
    simp [hm]
  · by_cases hle : lo ≤ i
    · simp [BitVec.getLsbD_of_ge x (i - lo) (by omega)]
    · simp [hle]

/-- A field reads back from its own bits. -/
theorem field_extract_same {n : Nat} (x : BitVec n) (lo : Nat) (h : lo + n ≤ 32) :
    (x.setWidth 32 <<< lo).extractLsb' lo n = x := by
  refine BitVec.eq_of_getLsbD_eq fun i hi => ?_
  rw [BitVec.getLsbD_extractLsb', field_getLsbD]
  simp [hi]
  intros; omega

/-- A field does not show in bits that are not its own. -/
theorem field_extract_other {n : Nat} (x : BitVec n) (lo lo' k : Nat) (h : lo + n ≤ lo' ∨ lo' + k ≤ lo) :
    (x.setWidth 32 <<< lo).extractLsb' lo' k = 0#k := by
  refine BitVec.eq_of_getLsbD_eq fun i hi => ?_
  rw [BitVec.getLsbD_extractLsb', field_getLsbD, BitVec.getLsbD_zero]
  by_cases hle : lo ≤ lo' + i
  · simp [BitVec.getLsbD_of_ge x (lo' + i - lo) (by omega)]
  · simp [hle]

/-- The reserved bits of STATUS (R23). -/
theorem statusWord_reserved (st : Status) : statusWord st &&& 0xFFFFFF08#32 = 0#32 := by
  have hbusy := field_and_mask (BitVec.ofBool st.busy) 0 0xFFFFFF08#32 (by decide)
  have hdone := field_and_mask (BitVec.ofBool st.done) 1 0xFFFFFF08#32 (by decide)
  have herr := field_and_mask (BitVec.ofBool st.err) 2 0xFFFFFF08#32 (by decide)
  have hcode := field_and_mask (errCodeBits st.errcode) 4 0xFFFFFF08#32 (by decide)
  rw [BitVec.shiftLeft_zero] at hbusy
  simp only [statusWord, BitVec.and_or_distrib_right, hbusy, hdone, herr, hcode, BitVec.or_zero]

/-- The reserved bits of RKINFO (R34). -/
theorem rkInfoWord_reserved (k : RkInfo) : rkInfoWord k &&& 0xFFF8F0F0#32 = 0#32 := by
  have hvalid := field_and_mask k.valid 0 0xFFF8F0F0#32 (by decide)
  have hbs := field_and_mask k.bs 8 0xFFF8F0F0#32 (by decide)
  have hrc := field_and_mask k.rc 16 0xFFF8F0F0#32 (by decide)
  rw [BitVec.shiftLeft_zero] at hvalid
  simp only [rkInfoWord, BitVec.and_or_distrib_right, hvalid, hbs, hrc, BitVec.or_zero]

/-- Settles O50: no field of these registers has a reserved bit; the reserved offsets and ID have no fields at all. -/
theorem reservedBitsReadZero : Obligations.ReservedBitsReadZero := by
  intro s
  have hie := field_and_mask (BitVec.ofBool s.ie) 0 0xFFFFFFFE#32 (by decide)
  have hlen := field_and_mask s.mkLen 0 0xFFFFFFC0#32 (by decide)
  rw [BitVec.shiftLeft_zero] at hie hlen
  exact ⟨rfl, rfl, hie, statusWord_reserved s.status, hlen, rkInfoWord_reserved s.rkinfo⟩

/-- ERRCODE in bits 7:4 (R23). -/
theorem statusWord_errcode (st : Status) : (statusWord st).extractLsb' 4 4 = errCodeBits st.errcode := by
  have hbusy := field_extract_other (BitVec.ofBool st.busy) 0 4 4 (by decide)
  have hdone := field_extract_other (BitVec.ofBool st.done) 1 4 4 (by decide)
  have herr := field_extract_other (BitVec.ofBool st.err) 2 4 4 (by decide)
  have hcode := field_extract_same (errCodeBits st.errcode) 4 (by decide)
  rw [BitVec.shiftLeft_zero] at hbusy
  simp only [statusWord, BitVec.extractLsb'_or, hbusy, hdone, herr, hcode, BitVec.zero_or]

/-- Settles O51: BUSY, DONE and ERR are the single bits of their fields, and ERRCODE is a field of four. -/
theorem statusFieldsLieWhereStated : Obligations.StatusFieldsLieWhereStated := by
  intro s
  refine ⟨by simp [readReg, statusWord], by simp [readReg, statusWord], by simp [readReg, statusWord], ?_⟩
  rw [readReg, statusWord_errcode]
  cases s.status.errcode <;> rfl

/-- VALID, BS and RC at bits 3:0, 11:8 and 18:16 (R34). -/
theorem rkInfoWord_fields (k : RkInfo) : (rkInfoWord k).extractLsb' 0 4 = k.valid ∧
    (rkInfoWord k).extractLsb' 8 4 = k.bs ∧ (rkInfoWord k).extractLsb' 16 3 = k.rc := by
  have hword : rkInfoWord k =
      k.valid.setWidth 32 <<< 0 ||| k.bs.setWidth 32 <<< 8 ||| k.rc.setWidth 32 <<< 16 := by
    rw [BitVec.shiftLeft_zero]; rfl
  simp only [hword, BitVec.extractLsb'_or]
  refine ⟨?valid, ?bs, ?rc⟩
  case valid =>
    rw [field_extract_same k.valid 0 (by decide), field_extract_other k.bs 8 0 4 (by decide),
      field_extract_other k.rc 16 0 4 (by decide), BitVec.or_zero, BitVec.or_zero]
  case bs =>
    rw [field_extract_other k.valid 0 8 4 (by decide), field_extract_same k.bs 8 (by decide),
      field_extract_other k.rc 16 8 4 (by decide), BitVec.or_zero, BitVec.zero_or]
  case rc =>
    rw [field_extract_other k.valid 0 16 3 (by decide), field_extract_other k.bs 8 16 3 (by decide),
      field_extract_same k.rc 16 (by decide), BitVec.or_zero, BitVec.zero_or]

/-! ### Bytes and entries in the registers that hold them -/

/-- Bytes 0..3 of a block are those of its high register (R26). -/
theorem byteAt_hi (b : Block) (j : Nat) (h : j < 4) : (b.hi >>> (24 - 8 * j)).setWidth 8 = byteAt b j := by
  simp [byteAt, h, Nat.mod_eq_of_lt h]

/-- Bytes 4..7 of a block are those of its low register (R26). -/
theorem byteAt_lo (b : Block) (j : Nat) (h : j < 4) : (b.lo >>> (24 - 8 * j)).setWidth 8 = byteAt b (j + 4) := by
  simp [byteAt, Nat.mod_eq_of_lt h]

/-- Bytes 4w..4w+3 of the key are those of register w (R31). -/
theorem keyByte_of_reg (mk : List Word) (w j : Nat) (h : j < 4) :
    ((mk[w]?.getD 0#32) >>> (24 - 8 * j)).setWidth 8 = keyByte mk (4 * w + j) := by
  have hdiv : (4 * w + j) / 4 = w := by omega
  have hmod : (4 * w + j) % 4 = j := by omega
  rw [keyByte, hdiv, hmod]

/-- Entries 0..7 of a table are the nibbles of its low register (R36). -/
theorem entryAt_lo (tb : SboxTable) (j : Nat) (h : j < 8) : nibbleAt tb.lo j = entryAt tb (BitVec.ofNat 4 j) := by
  have hj : (BitVec.ofNat 4 j).toNat = j := by rw [BitVec.toNat_ofNat]; omega
  rw [entryAt, hj, if_pos h, Nat.mod_eq_of_lt h, nibbleAt]

/-- Entries 8..15 of a table are the nibbles of its high register (R36). -/
theorem entryAt_hi (tb : SboxTable) (j : Nat) (h : j < 8) :
    nibbleAt tb.hi j = entryAt tb (BitVec.ofNat 4 (8 + j)) := by
  have hj : (BitVec.ofNat 4 (8 + j)).toNat = 8 + j := by rw [BitVec.toNat_ofNat]; omega
  have hmod : (8 + j) % 8 = j := by omega
  rw [entryAt, hj, if_neg (by omega), hmod, nibbleAt]

/-- Settles O47: each register is its field by definition, and what lies in it is said by the lemmas above. -/
theorem registersShowTheirFields : Obligations.RegistersShowTheirFields := by
  intro s shows
  have hblock (hi lo : Reg) (b : Block) (hhi : readReg hi s = b.hi) (hlo : readReg lo s = b.lo) : shows hi lo b :=
    ⟨hhi, hlo, fun j hj => ⟨hhi ▸ byteAt_hi b j hj, hlo ▸ byteAt_lo b j hj⟩⟩
  have hslot (k : Nat) : slotKey s k = slot s k := List.getD_eq_getElem?_getD
  have hkey (w : Fin 8) : readReg (.mk w) s = (s.mkey[w.val]?).getD 0#32 := List.getD_eq_getElem?_getD
  refine ⟨rfl, by simp [readReg, ctrlWord], rfl, rfl, rkInfoWord_fields s.rkinfo, hblock _ _ _ rfl rfl,
    hblock _ _ _ rfl rfl, hblock _ _ _ rfl rfl, fun k => hblock _ _ _ ?_ ?_, ?_, fun w => ⟨hkey w, fun j hj => ?_⟩,
    fun t => ⟨rfl, rfl, fun j => ⟨entryAt_lo s.sbox[t] j j.isLt, entryAt_hi s.sbox[t] j j.isLt⟩⟩⟩
  · rw [← hslot]; rfl
  · rw [← hslot]; rfl
  · simp [readReg]; omega
  · rw [hkey]; exact keyByte_of_reg s.mkey w j hj

/-! ### Reset -/

/-- Nibble i of a word in R9's shift. -/
theorem nibbleOf_eq_nibbleAt (w : Word) (i : Nat) : nibbleOf w i = nibbleAt w i := by
  apply BitVec.eq_of_toNat_eq
  simp [nibbleOf, nibbleAt]

/-- SB[t][v] in R36's shift is the model's table entry. -/
theorem entryAt_eq_tableEntry (tb : SboxTable) (v : Nibble) : entryAt tb v = tableEntry tb v := by
  have hv : v.toNat < 16 := nibble_toNat_lt v
  unfold entryAt tableEntry
  by_cases h : v.toNat < 8
  · simp [h, nibbleOf_eq_nibbleAt, nibbleAt, Nat.mod_eq_of_lt h]
  · have hmod : v.toNat % 8 = v.toNat - 8 := by omega
    simp [h, nibbleOf_eq_nibbleAt, nibbleAt, hmod]

/-- Entry v of a packed table (R36). -/
theorem entryAt_packTable (f : Fin 16 → Nibble) (v : Fin 16) : entryAt (packTable f) (BitVec.ofFin v) = f v := by
  have hv : v.val < 16 := v.isLt
  rw [entryAt_eq_tableEntry, tableEntry, packTable, BitVec.toNat_ofFin]
  split
  · next h =>
    rw [nibbleOf_packNibbles _ _ h]
    exact congrArg f (Fin.ext (Nat.mod_eq_of_lt hv))
  · next h =>
    rw [nibbleOf_packNibbles _ _ (by omega), Nat.sub_add_cancel (Nat.le_of_not_lt h)]
    exact congrArg f (Fin.ext (Nat.mod_eq_of_lt hv))

/-- The reset column of R20, under every value of the parameters. -/
theorem readReg_resetState (p : Params) (r : Reg) (hlo : ∀ t, r ≠ .sboxLo t) (hhi : ∀ t, r ≠ .sboxHi t) :
    readReg r (resetState p) = resetColumn r := by
  have hslot (k : Nat) : slotKey (resetState p) k = zeroBlock := slotKey_cleared p.rkSlots k
  cases r
  case mk w =>
    by_cases h : w.val < p.keyRegs <;> simp [readReg, keyReg, resetColumn, h]
  case rkHi k | rkLo k => simp [readReg, hslot, resetColumn, zeroBlock]
  case status => exact (by decide : statusWord ⟨false, false, false, .noError⟩ = 0#32)
  case rkinfo => exact (by decide : rkInfoWord ⟨0#4, 0#4, 0#3⟩ = 0#32)
  case sboxLo t => exact absurd rfl (hlo t)
  case sboxHi t => exact absurd rfl (hhi t)
  all_goals rfl

/-- Settles O54: the parameters bear only on the tables, and those hold what was packed into them. -/
theorem resetValuesThroughTheWindow : Obligations.ResetValuesThroughTheWindow := by
  unfold Obligations.ResetValuesThroughTheWindow
  intro resetTo
  have hall (p : Params) : resetTo p.sboxInit (resetState p) := by
    refine ⟨readReg_resetState p, fun t v => ?_, rfl, rfl⟩
    have htable : (resetState p).sbox[t] = packTable (p.sboxInit t) := by simp
    rw [htable, entryAt_packTable]
  exact ⟨hall hwParams, hall⟩

end Sys2Proof.Proofs
end

section
/-! PROOF. What a host access does: a read back after a write (O46), the step of a full write (O44, O45, O48), and what stays
while a command is pending (O53). -/

namespace Sys2Proof.Proofs

open Sys2Proof.Machine Sys2Proof.Claims

/-! ### Good writes -/

/-- A good write, in the model's test of an access (R63). -/
theorem writes_iff (a : BusAccess) (r : Reg) (v : Word) :
    writes a r v ↔ badAccess a = false ∧ a.write = true ∧ regAt a.addr = r ∧ a.wdata = v := by
  simp only [writes, badAccess, Bool.or_eq_false_iff, Bool.and_eq_false_iff, bne_eq_false_iff_eq]
  constructor
  · rintro ⟨hw, hs, ha, hr, hv⟩
    exact ⟨⟨ha, .inr hs⟩, hw, hr, hv⟩
  · rintro ⟨⟨ha, hs⟩, hw, hr, hv⟩
    exact ⟨hw, hs.resolve_left (by simp [hw]), ha, hr, hv⟩

/-- The access of a good write is the host write to its register, answered without an error (R62). -/
theorem hostAccess_of_writes (p : Params) (a : BusAccess) (r : Reg) (v : Word) (s : State) (h : writes a r v) :
    hostAccess p a s = { hostWrite p r v s with lastResp := wrote } := by
  obtain ⟨hgood, hwrite, rfl, rfl⟩ := (writes_iff a r v).mp h
  exact hostAccess_write p a s hwrite hgood

/-- The step of a good write, under every value of the parameters. -/
theorem stepWith_of_writes (p : Params) (s : State) (a : BusAccess) (rest : List Turn) (r : Reg) (v : Word)
    (hturn : s.turns = Turn.access a :: rest) (h : writes a r v) :
    stepWith p s = .next { hostWrite p r v { s with turns := rest } with lastResp := wrote } := by
  rw [stepWith_access p s a rest hturn, hostAccess_of_writes p a r v _ h]

/-- The step of a good write on this hardware. -/
theorem step_of_writes (s : State) (a : BusAccess) (rest : List Turn) (r : Reg) (v : Word)
    (hturn : s.turns = Turn.access a :: rest) (h : writes a r v) :
    step s = .next { hostWrite hwParams r v { s with turns := rest } with lastResp := wrote } := by
  rw [step_eq_stepWith, stepWith_of_writes hwParams s a rest r v hturn h]

/-- A write to STATUS is performed, busy or not (R205). -/
theorem hostWrite_status (p : Params) (v : Word) (s : State) : hostWrite p .status v s = writeStatus v s := by
  simp [hostWrite, writeReg]

/-- Settles O44: an accepted CMD write is the issue of its word (R204). -/
theorem cmdWriteIssues : Obligations.CmdWriteIssues := by
  intro s a rest w hturn hidle h
  rw [step_of_writes s a rest .cmd w hturn h, hostWrite_of_idle hwParams .cmd w { s with turns := rest } hidle]
  rfl

/-- Settles O45: a STATUS write is the W1C of R23 at any time. -/
theorem statusWriteClearsWhatItSelects : Obligations.StatusWriteClearsWhatItSelects := by
  intro s a rest v hturn h
  rw [step_of_writes s a rest .status v hturn h, hostWrite_status]
  rfl

/-! ### What an accepted write stores -/

/-- Bits 5:0 of a written word (R30). -/
theorem and_lowBits_toNat (v : Word) : (v &&& 0x3F#32).toNat = (v.extractLsb' 0 6).toNat := by
  rw [BitVec.toNat_and, BitVec.extractLsb'_toNat]
  exact Nat.and_two_pow_sub_one_eq_mod v.toNat 6

/-- MK_LEN takes the written length, or the capacity where the length is above it (R30). -/
theorem mkLenLegal_toNat (cap : Nat) (v : Word) : (mkLenLegal cap v).toNat = min cap (v &&& 0x3F#32).toNat := by
  have hlt := (v.extractLsb' 0 6).isLt
  rw [and_lowBits_toNat, mkLenLegal]
  split
  · rw [BitVec.toNat_ofNat]; omega
  · omega

/-- The registers that the host cannot write (R21, R27, R28, R33, R34) and the reserved offsets (R35). -/
def ReadOnly (r : Reg) : Prop :=
  r = .id ∨ r = .doutHi ∨ r = .doutLo ∨ r = .res ∨ r = .rkinfo ∨ r = .reserved ∨ ∃ k, r = .rkHi k ∨ r = .rkLo k

theorem writeReg_of_readOnly (p : Params) (r : Reg) (v : Word) (s : State) (h : ReadOnly r) : writeReg p r v s = s := by
  rcases h with rfl | rfl | rfl | rfl | rfl | rfl | ⟨k, rfl | rfl⟩ <;> rfl

/-- Settles O48: with BUSY = 0 a host write is the register write, whose cases are the registers; the step makes it. -/
theorem writesStoreTheirFields : Obligations.WritesStoreTheirFields := by
  refine ⟨fun p s v hidle => ?stores, fun s a rest r v hturn _ h _ => ?steps⟩
  case stores =>
    have hw (r : Reg) : hostWrite p r v s = writeReg p r v s := hostWrite_of_idle p r v s hidle
    simp only [hw]
    refine ⟨rfl, rfl, rfl, rfl, rfl, ⟨_, mkLenLegal_toNat p.mkCap v, rfl⟩, fun w => ⟨_, rfl, ?length, fun n hn => ?word⟩,
      fun t => ⟨rfl, rfl⟩, fun r hr => writeReg_of_readOnly p r v s hr⟩
    case length => exact List.length_set
    case word => grind
  case steps =>
    rw [← hwParams_eq_hardware]
    exact ⟨step_of_writes s a rest r v hturn h, fun p => stepWith_of_writes p s a rest r v hturn h⟩

/-! ### Reading back -/

/-- A register reads back what an accepted write stored, by its access (R20, R22, R30, R31). -/
theorem readReg_writeReg_same (p : Params) (r : Reg) (v : Word) (s : State) (hstatus : r ≠ .status) (hcmd : r ≠ .cmd) :
    readReg r (writeReg p r v s) = afterWrite p.mkCap s.mkey.length r v (readReg r s) := by
  cases r
  case status => exact absurd rfl hstatus
  case cmd => exact absurd rfl hcmd
  case ctrl =>
    refine BitVec.eq_of_getLsbD_eq fun i hi => ?_
    cases i <;> simp [readReg, writeReg, afterWrite, ctrlWord]
  case mkLen =>
    have hlen := mkLenLegal_toNat p.mkCap v
    have hlow : (v &&& 0x3F#32).toNat < 2 ^ 6 := and_lowBits_toNat v ▸ (v.extractLsb' 0 6).isLt
    apply BitVec.eq_of_toNat_eq
    simp only [readReg, writeReg, afterWrite, BitVec.toNat_setWidth, hlen]
    split
    · rw [BitVec.toNat_ofNat]; omega
    · omega
  case mk w =>
    by_cases h : w.val < s.mkey.length <;> simp [readReg, writeReg, afterWrite, keyReg, List.getD, h]
  case sboxLo t | sboxHi t => simp [readReg, writeReg, afterWrite]
  all_goals rfl

/-- An accepted write does not show in any other register. -/
theorem readReg_writeReg_other (p : Params) (r r' : Reg) (v : Word) (s : State) (hstatus : r ≠ .status) (hcmd : r ≠ .cmd)
    (hne : r' ≠ r) : readReg r' (writeReg p r v s) = readReg r' s := by
  cases r
  case status => exact absurd rfl hstatus
  case cmd => exact absurd rfl hcmd
  case ctrl => cases r' with | ctrl => exact absurd rfl hne | _ => rfl
  case dinHi => cases r' with | dinHi => exact absurd rfl hne | _ => rfl
  case dinLo => cases r' with | dinLo => exact absurd rfl hne | _ => rfl
  case ctrHi => cases r' with | ctrHi => exact absurd rfl hne | _ => rfl
  case ctrLo => cases r' with | ctrLo => exact absurd rfl hne | _ => rfl
  case mkLen => cases r' with | mkLen => exact absurd rfl hne | _ => rfl
  case mk w =>
    cases r' with
    | mk w' =>
      have hw : w.val ≠ w'.val := fun h => hne (congrArg Reg.mk (Fin.ext h.symm))
      simp [readReg, writeReg, keyReg, List.getD, List.getElem?_set_ne hw]
    | _ => rfl
  case sboxLo t =>
    cases r' with
    | sboxLo t' =>
      have ht : t.val ≠ t'.val := fun h => hne (congrArg Reg.sboxLo (Fin.ext h.symm))
      simp [readReg, writeReg, ht]
    | sboxHi t' => by_cases ht : t.val = t'.val <;> simp [readReg, writeReg, ht]
    | _ => rfl
  case sboxHi t =>
    cases r' with
    | sboxHi t' =>
      have ht : t.val ≠ t'.val := fun h => hne (congrArg Reg.sboxHi (Fin.ext h.symm))
      simp [readReg, writeReg, ht]
    | sboxLo t' => by_cases ht : t.val = t'.val <;> simp [readReg, writeReg, ht]
    | _ => rfl
  all_goals rfl

/-- Settles O46: the two rules of the window, for the register written and for the others. -/
theorem writeThenReadOfTheWindow : Obligations.WriteThenReadOfTheWindow := by
  intro p s r r' v hidle hstatus hcmd
  rw [hostWrite_of_idle p r v s hidle]
  split
  · next h => rw [h, readReg_writeReg_same p r v s hstatus hcmd]
  · next h => exact readReg_writeReg_other p r r' v s hstatus hcmd h

/-! ### While a command is pending -/

/-- With BUSY = 1 a host write changes only STATUS, and not BUSY (R38, R68). -/
theorem hostWrite_of_busy (p : Params) (r : Reg) (v : Word) (s : State) (h : s.status.busy = true) :
    ∃ st : Status, st.busy = true ∧ hostWrite p r v s = { s with status := st } := by
  rcases hostWrite_cases p r v s with ⟨-, -, hw⟩ | ⟨-, hw⟩ | ⟨hidle, -, -⟩
  · exact ⟨statusBusyWrite s.status, h, hw⟩
  · exact ⟨statusW1C v s.status, h, hw⟩
  · simp [h] at hidle

/-- Settles O53: of the three things an access can be, only the write reaches the core, and then only STATUS. -/
theorem operandsAndResultsStayWhilePending : Obligations.OperandsAndResultsStayWhilePending := by
  intro s a rest hturn hbusy
  refine ⟨_, step_access s a rest hturn, ?_⟩
  obtain ⟨st, hst, hwrite⟩ := hostWrite_of_busy hwParams (regAt a.addr) a.wdata { s with turns := rest } hbusy
  rcases hostAccess_cases hwParams a { s with turns := rest } with ⟨-, h⟩ | ⟨-, -, h⟩ | ⟨-, -, h⟩ <;> rw [h]
  · exact ⟨hbusy, rfl⟩
  · rw [hwrite]
    exact ⟨hst, rfl⟩
  · exact ⟨hbusy, rfl⟩

end Sys2Proof.Proofs
end

section
/-! PROOF. Who writes the error fields (O58) and who writes the round-key slots (O59): the step's moves, one by one. -/

namespace Sys2Proof.Proofs

open Sys2Proof.Machine Sys2Proof.Claims

/-! ### The core's moves -/

theorem coreMoves_of_idle (s : State) (h : s.turns = []) : coreMoves s := by
  simp [coreMoves, h]

theorem coreMoves_of_complete (s : State) (rest : List Turn) (h : s.turns = Turn.complete :: rest) : coreMoves s := by
  simp [coreMoves, h]

/-- A step is a move of the core, which reads all of the state but the turns, or an access, or a reset edge. -/
theorem step_moves (s t : State) (h : step s = .next t) :
    (coreMoves s ∧ ∃ turns, coreStep (execWith hwParams) { s with turns := turns } = .next t) ∨
    (∃ a rest, s.turns = Turn.access a :: rest ∧ t = hostAccess hwParams a { s with turns := rest }) ∨
    ∃ a rest, s.turns = Turn.reset a :: rest ∧ t = resetEdge hwParams a { s with turns := rest } := by
  rw [step_eq_stepWith] at h
  rcases stepWith_cases hwParams s _ h with ⟨hturn, ht⟩ | ⟨rest, hturn, ht⟩ | ⟨a, rest, hturn, ht⟩ | ⟨a, rest, hturn, ht⟩
  · exact .inl ⟨coreMoves_of_idle s hturn, s.turns, ht.symm⟩
  · exact .inl ⟨coreMoves_of_complete s rest hturn, rest, ht.symm⟩
  · exact .inr (.inl ⟨a, rest, hturn, Host.Outcome.next.inj ht⟩)
  · exact .inr (.inr ⟨a, rest, hturn, Host.Outcome.next.inj ht⟩)

/-! ### The error fields -/

/-- ERR and ERRCODE stay as they are. -/
def ErrKept (st st' : Status) : Prop := st'.err = st.err ∧ st'.errcode = st.errcode

/-- ERR and ERRCODE are clear (R23, R230). -/
def ErrClear (st : Status) : Prop := st.err = false ∧ st.errcode = .noError

/-- ERR is set, with a code (R201, R205). -/
def ErrSet (st : Status) : Prop := st.err = true ∧ st.errcode ≠ .noError

/-- ERR agrees with ERRCODE after each of the three ways to write them, if it did before (R24). -/
theorem err_agrees_of_moves (st st' : Status) (h : ErrKept st st' ∨ ErrClear st' ∨ ErrSet st')
    (hs : st.err = false ↔ st.errcode = .noError) : st'.err = false ↔ st'.errcode = .noError := by
  rcases h with ⟨herr, hcode⟩ | ⟨herr, hcode⟩ | ⟨herr, hcode⟩
  · rw [herr, hcode]; exact hs
  · simp [herr, hcode]
  · simp [herr, hcode]

/-- A completion keeps the error fields, or raises (R201, R204). -/
theorem execWith_err (p : Params) (i : Instr) (s t : State) (h : execWith p i s = .next t) :
    ErrKept s.status t.status ∨ ErrSet t.status := by
  rcases execWith_outcome p i s t h with ⟨-, rfl⟩ | rfl | ⟨-, c, hc, rfl⟩
  · exact .inl (by simp [ErrKept])
  · exact .inr (by simp [ErrSet])
  · exact .inr (by simp [ErrSet, keygenFail, hc])

/-- The core's step keeps the error fields, or is the completion of a pending command that raises. -/
theorem coreStep_err (p : Params) (s t : State) (h : coreStep (execWith p) s = .next t) :
    ErrKept s.status t.status ∨ (s.pending.isSome = true ∧ ErrSet t.status) := by
  rcases coreStep_cases (execWith p) s _ h with ⟨-, ht⟩ | ⟨w, hp, -, ht⟩ | ⟨w, i, hp, -, ht⟩
  · exact .inl (Host.Outcome.next.inj ht ▸ ⟨rfl, rfl⟩)
  · exact .inr ⟨by simp [hp], Host.Outcome.next.inj ht ▸ by simp [ErrSet]⟩
  · exact (execWith_err p i s t ht.symm).imp id fun hset => ⟨by simp [hp], hset⟩

/-- A host write keeps the error fields, or is a STATUS write with bit 2, or is dropped (R23, R205). -/
theorem hostWrite_err (p : Params) (r : Reg) (v : Word) (s : State) :
    ErrKept s.status (hostWrite p r v s).status ∨
    (r = .status ∧ v.getLsbD 2 = true ∧ ErrClear (hostWrite p r v s).status) ∨
    (s.status.busy = true ∧ r ≠ .status ∧ (hostWrite p r v s).status = statusBusyWrite s.status) := by
  rcases hostWrite_cases p r v s with ⟨hbusy, hr, h⟩ | ⟨hr, h⟩ | ⟨-, hr, h⟩ <;> rw [h]
  · exact .inr (.inr ⟨hbusy, hr, rfl⟩)
  · cases hbit : v.getLsbD 2
    · rw [ErrKept, writeStatus_status, statusW1C_err, statusW1C_errcode, hbit]
      exact .inl ⟨rfl, rfl⟩
    · exact .inr (.inl ⟨hr, rfl, by simp [ErrClear, hbit]⟩)
  · refine .inl ?_
    cases r
    case status => exact absurd rfl hr
    all_goals exact ⟨rfl, rfl⟩

/-- So does an access, and the two that write them are good writes (R24, R63). -/
theorem hostAccess_err (p : Params) (a : BusAccess) (s : State) :
    ErrKept s.status (hostAccess p a s).status ∨
    (∃ v, writes a .status v ∧ v.getLsbD 2 = true ∧ ErrClear (hostAccess p a s).status) ∨
    (s.status.busy = true ∧ (∃ r v, r ≠ .status ∧ writes a r v) ∧
      (hostAccess p a s).status = statusBusyWrite s.status) := by
  rcases hostAccess_cases p a s with ⟨-, h⟩ | ⟨hgood, hwrite, h⟩ | ⟨-, -, h⟩ <;> rw [h]
  case inl | inr.inr => exact .inl ⟨rfl, rfl⟩
  have hwrites : writes a (regAt a.addr) a.wdata := (writes_iff _ _ _).mpr ⟨hgood, hwrite, rfl, rfl⟩
  rcases hostWrite_err p (regAt a.addr) a.wdata s with hkept | ⟨hr, hbit, hclear⟩ | ⟨hbusy, hr, hst⟩
  · exact .inl hkept
  · exact .inr (.inl ⟨_, hr ▸ hwrites, hbit, hclear⟩)
  · exact .inr (.inr ⟨hbusy, ⟨_, _, hr, hwrites⟩, hst⟩)

/-- The three writers of the error fields besides reset (R24): a STATUS write with bit 2, a completion that raises, a dropped
write. -/
def ErrWriter (s t : State) : Prop :=
  (s.pending.isSome = true ∧ t.status.err = true ∧ coreMoves s) ∨
    ∃ a rest, s.turns = Turn.access a :: rest ∧
      ((∃ v, writes a .status v ∧ v.getLsbD 2 = true) ∨
        (s.status.busy = true ∧ t.status.errcode = .busyWrite ∧ ∃ r v, r ≠ .status ∧ writes a r v))

/-- A step keeps the error fields, or clears or sets them together by a reset edge or by one of the three writers. -/
theorem step_err (s t : State) (h : step s = .next t) :
    ErrKept s.status t.status ∨
    ((ErrClear t.status ∨ ErrSet t.status) ∧ ((∃ a rest, s.turns = Turn.reset a :: rest) ∨ ErrWriter s t)) := by
  rcases step_moves s t h with ⟨hcore, turns, ht⟩ | ⟨a, rest, hturn, rfl⟩ | ⟨a, rest, hturn, rfl⟩
  case inl =>
    rcases coreStep_err hwParams { s with turns := turns } t ht with hkept | ⟨hpending, hset⟩
    · exact .inl hkept
    · exact .inr ⟨.inr hset, .inr (.inl ⟨hpending, hset.1, hcore⟩)⟩
  case inr.inl =>
    rcases hostAccess_err hwParams a { s with turns := rest } with hkept | ⟨v, hw, hbit, hclear⟩ | ⟨hbusy, hw, hst⟩
    · exact .inl hkept
    · exact .inr ⟨.inl hclear, .inr (.inr ⟨a, rest, hturn, .inl ⟨v, hw, hbit⟩⟩)⟩
    · have hset : ErrSet (hostAccess hwParams a { s with turns := rest }).status := hst ▸ by simp [ErrSet]
      exact .inr ⟨.inr hset, .inr (.inr ⟨a, rest, hturn, .inr ⟨hbusy, by rw [hst]; rfl, hw⟩⟩)⟩
  case inr.inr => exact .inr ⟨.inl (by simp [ErrClear]), .inl ⟨a, rest, hturn⟩⟩

/-- Settles O58: a step keeps, clears or sets the two together, and the last two are the writers' and reset's. -/
theorem errAndErrcodeMoveTogether : Obligations.ErrAndErrcodeMoveTogether := by
  refine ⟨⟨rfl, rfl⟩, fun s t h => ?_⟩
  have hmove := step_err s t h
  have htogether : ErrKept s.status t.status ∨ ErrClear t.status ∨ ErrSet t.status := hmove.imp id And.left
  refine ⟨htogether, err_agrees_of_moves s.status t.status htogether, fun hchange => ?_⟩
  rcases hmove with ⟨herr, hcode⟩ | ⟨-, hwriter⟩
  · exact absurd hchange (by simp [herr, hcode])
  · exact hwriter

/-! ### The slots -/

theorem hostAccess_rk (p : Params) (a : BusAccess) (s : State) : (hostAccess p a s).rk = s.rk := by
  obtain ⟨-, -, hrk, -⟩ := hostWrite_frame p (regAt a.addr) a.wdata s
  rcases hostAccess_cases p a s with ⟨-, h⟩ | ⟨-, -, h⟩ | ⟨-, -, h⟩ <;> rw [h]
  exact hrk

/-- The core's step writes the slots only at the completion of a KEYGEN form or of ZEROIZE (R32). -/
theorem coreStep_rk_ne (p : Params) (s t : State) (h : coreStep (execWith p) s = .next t) (hne : t.rk ≠ s.rk) :
    ∃ w i, s.pending = some w ∧ decode w = some i ∧ (isKeygen i = true ∨ i = .zeroize) := by
  rcases coreStep_cases (execWith p) s _ h with ⟨-, ht⟩ | ⟨w, -, -, ht⟩ | ⟨w, i, hp, hd, ht⟩
  · exact absurd (congrArg State.rk (Host.Outcome.next.inj ht)) hne
  · exact absurd (congrArg State.rk (Host.Outcome.next.inj ht)) hne
  · exact ⟨w, i, hp, hd, execWith_schedule_ne p i s t ht.symm (.inl hne)⟩

/-- Settles O59: no access writes the slots, so a step that changes them is a reset edge or the core's. -/
theorem onlyKeygenAndZeroizeWriteTheSlots : Obligations.OnlyKeygenAndZeroizeWriteTheSlots := by
  refine ⟨fun s a rest v hturn _ => ⟨_, step_access s a rest hturn, hostAccess_rk _ a _⟩, fun s t h hne => ?_⟩
  rcases step_moves s t h with ⟨hcore, turns, ht⟩ | ⟨a, rest, -, rfl⟩ | ⟨a, rest, hturn, -⟩
  · obtain ⟨w, i, hp, hd, hi⟩ := coreStep_rk_ne hwParams { s with turns := turns } t ht hne
    exact .inr ⟨w, i, hp, hd, hi, hcore⟩
  · exact absurd (hostAccess_rk hwParams a _) hne
  · exact .inl ⟨a, rest, hturn⟩

end Sys2Proof.Proofs
end

section
/-! PROOF. The accesses that leave the core as it is: a malformed one (O41) and a read (O42). -/

namespace Sys2Proof.Proofs

open Sys2Proof.Machine Sys2Proof.Claims

/-! ### Malformed accesses -/

/-- A malformed access, in the model's test of an access (R63). -/
theorem malformed_iff (a : BusAccess) : malformed a ↔ badAccess a = true := by
  simp only [malformed, badAccess, Bool.or_eq_true, Bool.and_eq_true, bne_iff_ne]

/-- A malformed access only gets the error response, read data 0 in it for a read (R63). -/
theorem hostAccess_of_malformed (p : Params) (a : BusAccess) (s : State) (h : malformed a) :
    hostAccess p a s =
      { s with lastResp := some { rdata := if a.write then none else some 0#32, err := true } } := by
  rcases hostAccess_cases p a s with ⟨-, hacc⟩ | ⟨hgood, -, -⟩ | ⟨hgood, -, -⟩
  · exact hacc
  · simp [(malformed_iff a).mp h] at hgood
  · simp [(malformed_iff a).mp h] at hgood

/-- The test of a read does not look at the strobes (R63). -/
theorem badAccess_read_wstrb (a : BusAccess) (m : BitVec 4) (hread : a.write = false) :
    badAccess { a with wstrb := m } = badAccess a := by
  simp [badAccess, hread]

/-- Nor does anything else in a read, aligned or not. -/
theorem hostAccess_read_wstrb (p : Params) (a : BusAccess) (m : BitVec 4) (s : State) (hread : a.write = false) :
    hostAccess p { a with wstrb := m } s = hostAccess p a s := by
  unfold hostAccess
  rw [badAccess_read_wstrb a m hread]

/-- Settles O41: a malformed access is the error response, and a read is the same access under any strobes. -/
theorem badAccessGetsOnlyBusErr : Obligations.BadAccessGetsOnlyBusErr := by
  refine ⟨fun s a rest hturn hbad => ⟨if a.write then none else some 0#32, fun hread => by simp [hread], ?_⟩,
    fun s a rest m hread hturn => ?_⟩
  · rw [step_access s a rest hturn, hostAccess_of_malformed hwParams a _ hbad]
  · rw [step_access s a rest hturn, step_access _ { a with wstrb := m } rest rfl,
      hostAccess_read_wstrb hwParams a m _ hread]

/-! ### Reads -/

/-- A good read, in the model's test of an access (R63). -/
theorem reads_iff (a : BusAccess) (r : Reg) :
    reads a r ↔ badAccess a = false ∧ a.write = false ∧ regAt a.addr = r := by
  simp only [reads, badAccess, Bool.or_eq_false_iff, Bool.and_eq_false_iff, bne_eq_false_iff_eq]
  constructor
  · rintro ⟨hread, haligned, hr⟩
    exact ⟨⟨haligned, .inl hread⟩, hread, hr⟩
  · rintro ⟨⟨haligned, -⟩, hread, hr⟩
    exact ⟨hread, haligned, hr⟩

/-- A good read only gets the response with its register's value (R62). -/
theorem hostAccess_of_reads (p : Params) (a : BusAccess) (r : Reg) (s : State) (h : reads a r) :
    hostAccess p a s = { s with lastResp := answered (readReg r s) } := by
  obtain ⟨hgood, hread, rfl⟩ := (reads_iff a r).mp h
  rcases hostAccess_cases p a s with ⟨hbad, -⟩ | ⟨-, hwrite, -⟩ | ⟨-, -, hacc⟩
  · simp [hgood] at hbad
  · simp [hread] at hwrite
  · exact hacc

/-- What a register reads as does not depend on the turns to come or the last response (log 5). -/
theorem readReg_turns_lastResp (r : Reg) (s : State) (turns : List Turn) (resp : Option BusResponse) :
    readReg r { s with turns := turns, lastResp := resp } = readReg r s := by
  cases r <;> rfl

/-- The step of a good read on this hardware. -/
theorem step_of_reads (s : State) (a : BusAccess) (rest : List Turn) (r : Reg)
    (hturn : s.turns = Turn.access a :: rest) (h : reads a r) :
    step s = .next { s with turns := rest, lastResp := answered (readReg r s) } := by
  have hvalue : readReg r { s with turns := rest } = readReg r s := readReg_turns_lastResp r s rest s.lastResp
  rw [step_access s a rest hturn, hostAccess_of_reads hwParams a r _ h, hvalue]

/-- Settles O42: a read changes the turns and the response only, which no register shows. -/
theorem readsHaveNoSideEffect : Obligations.ReadsHaveNoSideEffect := by
  intro s a rest r hturn h
  exact ⟨_, step_of_reads s a rest r hturn h, rfl, fun r' => readReg_turns_lastResp r' s rest _⟩

end Sys2Proof.Proofs
end

section
/-! PROOF. The command word: the opcode map's rows exclude each other (O4), encoding and decoding are inverse (O1, O2), the
reserved words are Illegal (O3), the sample words (O5), and the completion of an Illegal word (O7). -/

namespace Sys2Proof.Proofs

open Sys2Proof.Machine Sys2Proof.Claims

/-! ### The rows of the opcode map -/

theorem matchesWord_iff (r : OpcodeRow) (w : Word) : r.matchesWord w = true ↔ w &&& r.mask = r.pattern := by
  simp [OpcodeRow.matchesWord]

/-- Two rows that ask different values of the bits that both fix match no word together: on those bits the word would have
both values. -/
theorem not_both_match (r₁ r₂ : OpcodeRow) (h : r₁.pattern &&& r₂.mask ≠ r₂.pattern &&& r₁.mask) (w : Word) :
    ¬ (r₁.matchesWord w = true ∧ r₂.matchesWord w = true) := by
  simp only [matchesWord_iff]
  rintro ⟨h₁, h₂⟩
  apply h
  calc r₁.pattern &&& r₂.mask
      = w &&& r₁.mask &&& r₂.mask := by rw [h₁]
    _ = w &&& r₂.mask &&& r₁.mask := by rw [BitVec.and_assoc, BitVec.and_comm r₁.mask, ← BitVec.and_assoc]
    _ = r₂.pattern &&& r₁.mask := by rw [h₂]

/-- Any two rows of R86 ask different values of some bit that both fix. -/
theorem opcodeRows_clash :
    opcodeRows.Pairwise fun r₁ r₂ => r₁.pattern &&& r₂.mask ≠ r₂.pattern &&& r₁.mask := by
  decide

/-- Settles O4: any two rows clash on a bit that both fix. -/
theorem opcodeRowsNeverOverlap : Obligations.OpcodeRowsNeverOverlap :=
  opcodeRows_clash.imp fun h w => not_both_match _ _ h w

/-- At most one row matches a word. -/
theorem eq_of_matchesWord (r₁ r₂ : OpcodeRow) (h₁ : r₁ ∈ opcodeRows) (h₂ : r₂ ∈ opcodeRows) (w : Word)
    (hm₁ : r₁.matchesWord w = true) (hm₂ : r₂.matchesWord w = true) : r₁ = r₂ := by
  have hsymm : Std.Symm fun r₁ r₂ : OpcodeRow => ∀ w, ¬ (r₁.matchesWord w = true ∧ r₂.matchesWord w = true) :=
    ⟨fun _ _ h w hm => h w hm.symm⟩
  by_contra hne
  exact opcodeRowsNeverOverlap.forall h₁ h₂ hne w ⟨hm₁, hm₂⟩

/-! ### What decode answers -/

/-- A word decodes by the row that matches it, whatever the order of the rows. -/
theorem decode_eq_some_iff (w : Word) (i : Instr) :
    decode w = some i ↔ ∃ r ∈ opcodeRows, r.matchesWord w = true ∧ r.build w = i := by
  rw [decode, Option.map_eq_some_iff]
  constructor
  · rintro ⟨r, hr, hi⟩
    exact ⟨r, List.mem_of_find?_eq_some hr, List.find?_some (p := fun r : OpcodeRow => r.matchesWord w) hr, hi⟩
  · rintro ⟨r, hr, hm, hi⟩
    cases hfind : opcodeRows.find? (fun r => r.matchesWord w) with
    | none => exact absurd hm (List.find?_eq_none.mp hfind r hr)
    | some r' =>
      have heq := eq_of_matchesWord r' r (List.mem_of_find?_eq_some hfind) hr w
        (List.find?_some (p := fun r : OpcodeRow => r.matchesWord w) hfind) hm
      exact ⟨r', rfl, heq ▸ hi⟩

/-- A word is Illegal exactly when no row matches it (R87). -/
theorem decode_eq_none_iff (w : Word) : decode w = none ↔ ∀ r ∈ opcodeRows, ¬ r.matchesWord w = true := by
  rw [decode, Option.map_eq_none_iff, List.find?_eq_none]

/-! ### Bits that a row fixes -/

/-- A word has 0 in the bits where its row asks 0. -/
theorem and_eq_zero_of_matchesWord (r : OpcodeRow) (w bits : Word) (hm : r.matchesWord w = true)
    (hfixed : r.mask &&& bits = bits) (hzero : r.pattern &&& bits = 0#32) : w &&& bits = 0#32 :=
  calc w &&& bits
      = w &&& r.mask &&& bits := by rw [BitVec.and_assoc, hfixed]
    _ = 0#32 := by rw [(matchesWord_iff r w).mp hm, hzero]

/-- A word has its row's value in a field that the row fixes. -/
theorem extract_of_matchesWord (r : OpcodeRow) (w : Word) (lo n : Nat) (hm : r.matchesWord w = true)
    (hfixed : r.mask.extractLsb' lo n = BitVec.allOnes n) : w.extractLsb' lo n = r.pattern.extractLsb' lo n := by
  rw [← (matchesWord_iff r w).mp hm, BitVec.extractLsb'_and, hfixed, BitVec.and_allOnes]

/-- Every row asks 0 of the bits that are always reserved, 15 and 31:23 (R82). -/
theorem opcodeRows_reserved :
    ∀ r ∈ opcodeRows, r.mask &&& 0xFF808000#32 = 0xFF808000#32 ∧ r.pattern &&& 0xFF808000#32 = 0#32 := by
  simp [opcodeRows]

/-- Every row asks 0 of the bits outside the fields of its form (R82). -/
theorem opcodeRows_formBits (w : Word) :
    ∀ r ∈ opcodeRows, r.mask &&& ~~~(formBits (r.build w)) = ~~~(formBits (r.build w)) ∧
      r.pattern &&& ~~~(formBits (r.build w)) = 0#32 := by
  simp only [opcodeRows, List.forall_mem_cons, formBits]
  simp

/-- A word with bit 15 or a bit of 31:23 set is Illegal (R82). -/
theorem decode_of_reserved (w : Word) (h : w &&& 0xFF808000#32 ≠ 0#32) : decode w = none :=
  (decode_eq_none_iff w).mpr fun r hr hm =>
    have ⟨hfixed, hzero⟩ := opcodeRows_reserved r hr
    h (and_eq_zero_of_matchesWord r w _ hm hfixed hzero)

/-! ### A word's operands, encoded again -/

/-- A field taken from a word and put back is the word under the field's bits. -/
theorem extract_shift_eq_and (w : Word) (lo n : Nat) (bits : Word)
    (hbits : ∀ i < 32, bits.getLsbD i = (decide (lo ≤ i) && decide (i < lo + n))) :
    (w.extractLsb' lo n).setWidth 32 <<< lo = w &&& bits := by
  refine BitVec.eq_of_getLsbD_eq fun i hi => ?_
  rw [field_getLsbD, BitVec.getLsbD_extractLsb', BitVec.getLsbD_and, hbits i hi]
  by_cases hlo : lo ≤ i
  · have hlt : i - lo < n ↔ i < lo + n := by omega
    simp [hi, hlo, hlt, Bool.and_comm]
  · simp [hlo]

theorem slotField_shift (w : Word) : BitVec.ofNat 32 (slotField w).val <<< 4 = w &&& 0x00000030#32 := by
  rw [← extract_shift_eq_and w 4 2 _ (by decide), ← BitVec.ofNat_toNat]
  rfl

theorem tblField_shift (w : Word) : BitVec.ofNat 32 (tblField w).val <<< 6 = w &&& 0x000000C0#32 := by
  rw [← extract_shift_eq_and w 6 2 _ (by decide), ← BitVec.ofNat_toNat]
  rfl

theorem nibField_shift (w : Word) : (nibField w).setWidth 32 <<< 8 = w &&& 0x00000F00#32 :=
  extract_shift_eq_and w 8 4 _ (by decide)

theorem roundField_shift (w : Word) : BitVec.ofNat 32 (roundField w).val <<< 8 = w &&& 0x00000F00#32 := by
  rw [← extract_shift_eq_and w 8 4 _ (by decide), ← BitVec.ofNat_toNat]
  rfl

theorem lenField_shift (w : Word) : BitVec.ofNat 32 (lenField w - 1) <<< 12 = w &&& 0x00007000#32 := by
  rw [← extract_shift_eq_and w 12 3 _ (by decide), ← BitVec.ofNat_toNat]
  rfl

theorem rcField_shift (w : Word) : BitVec.ofNat 32 (rcField w - 1) <<< 18 = w &&& 0x000C0000#32 := by
  rw [← extract_shift_eq_and w 18 2 _ (by decide), ← BitVec.ofNat_toNat]
  rfl

theorem bsField_shift (w : Word) : BitVec.ofNat 32 (bsField w - 1) <<< 20 = w &&& 0x00700000#32 := by
  rw [← extract_shift_eq_and w 20 3 _ (by decide), ← BitVec.ofNat_toNat]
  rfl

/-- What a row builds from any word encodes to the row's pattern with that word's bits where the row fixes none: the row's
operand fields are the bits outside its mask. -/
theorem encode_build (w : Word) : ∀ r ∈ opcodeRows, encode (r.build w) = r.pattern ||| (w &&& ~~~r.mask) := by
  simp [opcodeRows, encode, slotField_shift, tblField_shift, nibField_shift, roundField_shift, lenField_shift,
    rcField_shift, bsField_shift, BitVec.or_assoc, ← BitVec.and_or_distrib_left]

/-- Decoding and encoding gives the word back. -/
theorem encode_of_decode (w : Word) (i : Instr) (h : decode w = some i) : encode i = w := by
  obtain ⟨r, hr, hm, rfl⟩ := (decode_eq_some_iff w i).mp h
  calc encode (r.build w)
      = r.pattern ||| (w &&& ~~~r.mask) := encode_build w r hr
    _ = (w &&& r.mask) ||| (w &&& ~~~r.mask) := by rw [(matchesWord_iff r w).mp hm]
    _ = w := by rw [← BitVec.and_or_distrib_left, BitVec.or_not_self, BitVec.and_allOnes]

/-- Settles O2: the row that decodes the word fixes every bit outside the operand fields, and these encode back to
themselves. -/
theorem everyLegalWordHasOneSpelling : Obligations.EveryLegalWordHasOneSpelling := by
  refine ⟨fun w i h => ⟨wellFormed_of_decode w i h, encode_of_decode w i h, ?_⟩, decode_of_reserved⟩
  obtain ⟨r, hr, hm, rfl⟩ := (decode_eq_some_iff w i).mp h
  obtain ⟨hfixed, hzero⟩ := opcodeRows_formBits w r hr
  exact and_eq_zero_of_matchesWord r w _ hm hfixed hzero

/-! ### A command's word, decoded again -/

/-- The row of a command in R86's table. -/
def rowOf : Instr → OpcodeRow
  | .nop => opcodeRows[0]
  | .sbox _ _ => opcodeRows[1]
  | .roundf _ _ => opcodeRows[2]
  | .fenc _ => opcodeRows[3]
  | .fdec _ => opcodeRows[4]
  | .ede _ => opcodeRows[5]
  | .ctr _ _ => opcodeRows[6]
  | .ctrinc => opcodeRows[7]
  | .keygen _ _ => opcodeRows[8]
  | .keygenEde => opcodeRows[9]
  | .keygenCtr => opcodeRows[10]
  | .zeroize => opcodeRows[11]

theorem rowOf_mem (i : Instr) : rowOf i ∈ opcodeRows := by
  cases i <;> exact List.getElem_mem _

/-- An index below 2^n is a field of n bits. -/
theorem ofNat_index {n : Nat} (k : Fin (2 ^ n)) : BitVec.ofNat 32 k.val = (BitVec.ofFin k).setWidth 32 :=
  BitVec.ofNat_toNat 32 (BitVec.ofFin k)

/-- A number in 1..2^n, less one, is a field of n bits (R83), from which it is read back. -/
theorem ofNat_count (n m : Nat) (h : inRange (2 ^ n) m = true) :
    ∃ x : BitVec n, BitVec.ofNat 32 (m - 1) = x.setWidth 32 ∧ x.toNat + 1 = m := by
  obtain ⟨hpos, hle⟩ := (inRange_iff _ m).mp h
  have hlt : m - 1 < 2 ^ n := by omega
  have hx : (BitVec.ofNat n (m - 1)).toNat = m - 1 := by rw [BitVec.toNat_ofNat, Nat.mod_eq_of_lt hlt]
  exact ⟨_, by rw [← BitVec.ofNat_toNat, hx], by rw [hx, Nat.sub_add_cancel hpos]⟩

/-- The field of an opcode with one operand. -/
theorem extract_operand {n : Nat} (op : Word) (x : BitVec n) (lo : Nat) (h : lo + n ≤ 32)
    (hop : op.extractLsb' lo n = 0#n) :
    (op ||| x.setWidth 32 <<< lo).extractLsb' lo n = x := by
  rw [BitVec.extractLsb'_or, field_extract_same x lo h, hop, BitVec.zero_or]

/-- The first field of an opcode with two. -/
theorem extract_first {n k : Nat} (op : Word) (x : BitVec n) (y : BitVec k) (lo lo' : Nat) (h : lo + n ≤ lo')
    (h32 : lo' ≤ 32) (hop : op.extractLsb' lo n = 0#n) :
    (op ||| x.setWidth 32 <<< lo ||| y.setWidth 32 <<< lo').extractLsb' lo n = x := by
  rw [BitVec.extractLsb'_or, extract_operand op x lo (h.trans h32) hop, field_extract_other y lo' lo n (.inr h),
    BitVec.or_zero]

/-- The second field of an opcode with two. -/
theorem extract_second {n k : Nat} (op : Word) (x : BitVec n) (y : BitVec k) (lo lo' : Nat) (h : lo + n ≤ lo')
    (h32 : lo' + k ≤ 32) (hop : op.extractLsb' lo' k = 0#k) :
    (op ||| x.setWidth 32 <<< lo ||| y.setWidth 32 <<< lo').extractLsb' lo' k = y := by
  rw [BitVec.extractLsb'_or, BitVec.extractLsb'_or, field_extract_other x lo lo' k (.inl h), hop,
    field_extract_same y lo' h32, BitVec.or_zero, BitVec.zero_or]

/-- A command's word matches the command's row: its operand fields lie outside the row's mask. -/
theorem rowOf_matches_encode (i : Instr) (h : i.wellFormed = true) : (rowOf i).matchesWord (encode i) = true := by
  rw [matchesWord_iff]
  cases i with
  | nop | ctrinc | keygenEde | keygenCtr | zeroize => rfl
  | sbox t v =>
    have ht := ofNat_index (n := 2) t
    simp (disch := decide) [rowOf, opcodeRows, encode, ht, BitVec.and_or_distrib_right, field_and_mask]
  | roundf k r =>
    have hk := ofNat_index (n := 2) k
    have hr := ofNat_index (n := 4) r
    simp (disch := decide) [rowOf, opcodeRows, encode, hk, hr, BitVec.and_or_distrib_right, field_and_mask]
  | fenc k | fdec k =>
    have hk := ofNat_index (n := 2) k
    simp (disch := decide) [rowOf, opcodeRows, encode, hk, BitVec.and_or_distrib_right, field_and_mask]
  | ede len =>
    obtain ⟨x, hx, -⟩ := ofNat_count 3 len h
    simp (disch := decide) [rowOf, opcodeRows, encode, hx, BitVec.and_or_distrib_right, field_and_mask]
  | ctr k len =>
    have hk := ofNat_index (n := 2) k
    obtain ⟨x, hx, -⟩ := ofNat_count 3 len h
    simp (disch := decide) [rowOf, opcodeRows, encode, hk, hx, BitVec.and_or_distrib_right, field_and_mask]
  | keygen rc bs =>
    obtain ⟨hrc, hbs⟩ := Bool.and_eq_true_iff.mp h
    obtain ⟨x, hx, -⟩ := ofNat_count 2 rc hrc
    obtain ⟨y, hy, -⟩ := ofNat_count 3 bs hbs
    simp (disch := decide) [rowOf, opcodeRows, encode, hx, hy, BitVec.and_or_distrib_right, field_and_mask]

/-- The row of a command reads every operand back from the command's word. -/
theorem rowOf_build_encode (i : Instr) (h : i.wellFormed = true) : (rowOf i).build (encode i) = i := by
  cases i <;> simp only [rowOf, opcodeRows, List.getElem_cons_succ, List.getElem_cons_zero, encode]
  case sbox t v =>
    simp (disch := decide) only [ofNat_index (n := 2) t, tblField, nibField, extract_first, extract_second]
  case roundf k r =>
    simp (disch := decide) only [ofNat_index (n := 2) k, ofNat_index (n := 4) r, slotField, roundField, extract_first,
      extract_second]
  case fenc k | fdec k =>
    simp (disch := decide) only [ofNat_index (n := 2) k, slotField, extract_operand]
  case ede len =>
    obtain ⟨x, hx, hlen⟩ := ofNat_count 3 len h
    simp (disch := decide) only [hx, lenField, extract_operand, hlen]
  case ctr k len =>
    obtain ⟨x, hx, hlen⟩ := ofNat_count 3 len h
    simp (disch := decide) only [ofNat_index (n := 2) k, hx, slotField, lenField, extract_first, extract_second, hlen]
  case keygen rc bs =>
    obtain ⟨hrcRange, hbsRange⟩ := Bool.and_eq_true_iff.mp h
    obtain ⟨x, hx, hrc⟩ := ofNat_count 2 rc hrcRange
    obtain ⟨y, hy, hbs⟩ := ofNat_count 3 bs hbsRange
    simp (disch := decide) only [hx, hy, rcField, bsField, extract_first, extract_second, hrc, hbs]

/-- Settles O1: the command's word matches the command's row, which reads the operands back. -/
theorem encodeThenDecodeGivesTheCommand : Obligations.EncodeThenDecodeGivesTheCommand := fun i h =>
  (decode_eq_some_iff _ i).mpr ⟨rowOf i, rowOf_mem i, rowOf_matches_encode i h, rowOf_build_encode i h⟩

/-! ### Reserved words -/

/-- Every row fixes OP, at 9 or less (R88). -/
theorem opcodeRows_op : ∀ r ∈ opcodeRows,
    r.mask.extractLsb' 0 4 = BitVec.allOnes 4 ∧ (r.pattern.extractLsb' 0 4).toNat < 10 := by
  decide

/-- Every row of OP 8 fixes SCHEME, and at another value than 11 (R88). -/
theorem opcodeRows_scheme : ∀ r ∈ opcodeRows, r.pattern.extractLsb' 0 4 = 8#4 →
    r.mask.extractLsb' 16 2 = BitVec.allOnes 2 ∧ r.pattern.extractLsb' 16 2 ≠ 3#2 := by
  decide

/-- The one row of OP 0 is the zero word's (R190). -/
theorem opcodeRows_op_zero : ∀ r ∈ opcodeRows, r.pattern.extractLsb' 0 4 = 0#4 →
    r.mask = BitVec.allOnes 32 ∧ r.pattern = 0#32 := by
  decide

/-- A word has its row's OP. -/
theorem op_of_matchesWord (r : OpcodeRow) (w : Word) (hr : r ∈ opcodeRows) (hm : r.matchesWord w = true) :
    w.extractLsb' 0 4 = r.pattern.extractLsb' 0 4 :=
  extract_of_matchesWord r w 0 4 hm (opcodeRows_op r hr).1

/-- A word is Illegal when no row of its OP matches it. -/
theorem decode_eq_none_of_op (w : Word)
    (h : ∀ r ∈ opcodeRows, r.pattern.extractLsb' 0 4 = w.extractLsb' 0 4 → ¬ r.matchesWord w = true) :
    decode w = none :=
  (decode_eq_none_iff w).mpr fun r hr hm => h r hr (op_of_matchesWord r w hr hm).symm hm

/-- Bit 15 or a bit of 31:23 set, as the mask of R82 says it. -/
theorem and_reserved_ne_zero (w : Word) (h : w.getLsbD 15 = true ∨ w.extractLsb' 23 9 ≠ 0#9) :
    w &&& 0xFF808000#32 ≠ 0#32 := by
  intro hzero
  rcases h with h15 | hhigh
  · have hbit : (w &&& 0xFF808000#32).getLsbD 15 = false := by rw [hzero, BitVec.getLsbD_zero]
    rw [BitVec.getLsbD_and, h15] at hbit
    exact absurd hbit (by decide)
  · have hbits : (w &&& 0xFF808000#32).extractLsb' 23 9 = 0#9 := by rw [hzero]; rfl
    have hmask : (0xFF808000#32).extractLsb' 23 9 = BitVec.allOnes 9 := by decide
    rw [BitVec.extractLsb'_and, hmask, BitVec.and_allOnes] at hbits
    exact hhigh hbits

/-- Settles O3: a word has its row's value where the row fixes it, and no row asks any of these values. -/
theorem reservedWordsDecodeAsIllegal : Obligations.ReservedWordsDecodeAsIllegal := by
  intro w
  refine ⟨fun hop => ?op, fun hop hscheme => ?scheme, fun h => decode_of_reserved w (and_reserved_ne_zero w h),
    fun hop hne => ?zero⟩
  case op =>
    refine decode_eq_none_of_op w fun r hr heq _ => ?_
    rw [← heq] at hop
    exact absurd (opcodeRows_op r hr).2 (Nat.not_lt.mpr hop)
  case scheme =>
    refine decode_eq_none_of_op w fun r hr heq hm => ?_
    obtain ⟨hfixed, hvalue⟩ := opcodeRows_scheme r hr (heq.trans hop)
    exact hvalue ((extract_of_matchesWord r w 16 2 hm hfixed).symm.trans hscheme)
  case zero =>
    refine decode_eq_none_of_op w fun r hr heq hm => hne ?_
    obtain ⟨hmask, hpattern⟩ := opcodeRows_op_zero r hr (heq.trans hop)
    rwa [matchesWord_iff, hmask, hpattern, BitVec.and_allOnes] at hm

/-! ### Sample words -/

/-- Settles O5: each word is its command's encoding, and the last has bit 15 set. -/
theorem sampleWordsDecode : Obligations.SampleWordsDecode :=
  have decodes := encodeThenDecodeGivesTheCommand
  ⟨decodes (.sbox 3 6#4) rfl, decodes (.roundf 0 5) rfl, decodes (.fenc 2) rfl, decodes (.fdec 0) rfl,
    decodes (.ede 3) rfl, decodes (.ctr 1 8) rfl, decodes (.keygen 4 5) rfl, decodes .keygenEde rfl,
    decodes .keygenCtr rfl, decodes .zeroize rfl, decode_of_reserved 0x00008005#32 (by decide)⟩

/-! ### The completion of an Illegal word -/

/-- The core completes an Illegal word with ILLEGAL alone, whatever the commands' meanings (R87). -/
theorem coreStep_illegal (run : Instr → State → Host.Outcome State Fault Refusal) (s : State) (w : Word)
    (h : s.pending = some w) (hd : decode w = none) : coreStep run s = .next (failed .illegal s) := by
  rw [← raiseCmdError_eq_failed]
  simp [coreStep, h, hd]

/-- Settles O7: on both turns the step is the core's, from the same latch. -/
theorem illegalWordCompletesWithIllegal : Obligations.IllegalWordCompletesWithIllegal := by
  intro s w rest hp hd
  refine ⟨fun hidle => ?_, fun hturn => ?_⟩
  · rw [step_idle s hidle, coreStep_illegal exec s w hp hd]
  · rw [step_complete s rest hturn, coreStep_illegal exec { s with turns := rest } w hp hd]

end Sys2Proof.Proofs
end

section
/-! PROOF. The S-box command (O10): the lookup and the completion in the statements' own formulas. -/

namespace Sys2Proof.Proofs

open Sys2Proof.Machine Sys2Proof.Claims

/-- The successful completion, as the statements write it (R204). -/
theorem completeOk_eq_done (s : State) : completeOk s = done s := rfl

/-- SBOX(t, v) is SB[t][v] in R36's shift (R100, R102). -/
theorem sboxLookup_eq_entryAt (sb : Vector SboxTable sbTables) (t : Fin sbTables) (v : Nibble) :
    sboxLookup sb t v = entryAt sb[t] v :=
  (entryAt_eq_tableEntry sb[t] v).symm

/-- SBOX on this hardware: RES takes the lookup, zero-extended, and the command completes (R101). -/
theorem exec_sbox (t : Fin sbTables) (v : Nibble) (s : State) :
    exec (.sbox t v) s = .next (completeOk { s with res := (sboxLookup s.sbox t v).setWidth 32 }) := rfl

/-- Settles O10: the model's lookup is the stored entry, and its completion the statement's. -/
theorem sboxWritesTheStoredEntry : Obligations.SboxWritesTheStoredEntry := by
  intro s t v
  rw [exec_sbox, sboxLookup_eq_entryAt, completeOk_eq_done]

end Sys2Proof.Proofs
end

section
/-! PROOF. The key schedule (O18, O19, O20, O27, O28): the slices, the slots that hold them and the word that records them,
and the two outcomes of every KEYGEN form. -/

namespace Sys2Proof.Proofs

open Sys2Proof.Machine Sys2Proof.Claims

/-! ### Slices and slots -/

/-- A shortfall gives no slice (R110). -/
theorem kslice_of_short (mk : List Word) (len rc bs : Nat) (h : len < rc * bs) : kslice mk len rc bs = none :=
  if_pos h

/-- Byte j of slice i (R110). -/
theorem byteAt_keySlice (mk : List Word) (bs i j : Nat) (hj : j < 8) :
    byteAt (keySlice mk bs i) j = if j < bs then keyByte mk (i * bs + j) else 0x00#8 := by
  rw [byteAt_eq_blockByte _ j hj, keySlice, blockByte_blockOf _ j hj, keyByte_eq_mkByte]

/-- Slot k of a schedule: slice k, or 0x00 x 8 past the slices (R111). -/
theorem scheduleSlots_getElem? (slots : Nat) (sl : List Block) (k : Nat) (hk : k < slots) :
    (scheduleSlots slots sl)[k]? = some ((sl[k]?).getD zeroBlock) := by
  simp [scheduleSlots, hk]

/-- Settles O28: the two branches of KSLICE, and a schedule slot by slot. -/
theorem ksliceSlicesTheKey : Obligations.KsliceSlicesTheKey := by
  intro slots mk len rc bs
  refine ⟨kslice_of_short mk len rc bs, fun hlong => ⟨_, kslice_of_long mk len rc bs hlong, by simp, ?bytes,
    scheduleSlots_length slots _, scheduleSlots_getElem? slots _⟩⟩
  case bytes =>
    intro i j b hb hj
    obtain ⟨-, rfl⟩ : i < rc ∧ keySlice mk bs i = b := by simpa [List.getElem?_eq_some_iff] using hb
    exact byteAt_keySlice mk bs i j hj

/-- Byte j of slot k, for the slices of a key: the slice's byte, 0x00 past the slice's bytes and past the slices (R111). -/
theorem byteAt_scheduleSlots (slots : Nat) (mk : List Word) (rc bs k j : Nat) (hk : k < slots) (hj : j < 8) :
    ((scheduleSlots slots ((List.range rc).map (keySlice mk bs)))[k]?).map (fun b => byteAt b j) =
      some (if k < rc ∧ j < bs then keyByte mk (k * bs + j) else 0x00#8) := by
  rw [scheduleSlots_getElem? slots _ k hk, ← List.getD_eq_getElem?_getD, slices_getD, Option.map_some]
  by_cases hrc : k < rc
  · simp [hrc, byteAt_keySlice mk bs k j hj]
  · simp [hrc, byteAt_eq_blockByte _ j hj, blockByte_zeroBlock]

/-! ### The record of a schedule -/

/-- RKINFO's word from its fields as numbers (R34, R111). -/
theorem rkInfoWord_ofNat (v bs rc : Nat) (hv : v < 16) (hbs : bs < 16) (hrc : rc < 8) :
    rkInfoWord ⟨BitVec.ofNat 4 v, BitVec.ofNat 4 bs, BitVec.ofNat 3 rc⟩ =
      BitVec.ofNat 32 (v ||| (bs <<< 8) ||| (rc <<< 16)) := by
  rw [rkInfoWord, BitVec.setWidth_ofNat_of_le_of_lt (by decide) hv, BitVec.setWidth_ofNat_of_le_of_lt (by decide) hbs,
    BitVec.setWidth_ofNat_of_le_of_lt (by decide) hrc]
  have hbs32 : bs % 2 ^ 32 = bs := Nat.mod_eq_of_lt (by omega)
  have hrc32 : rc % 2 ^ 32 = rc := Nat.mod_eq_of_lt (by omega)
  apply BitVec.eq_of_toNat_eq
  simp only [BitVec.toNat_or, BitVec.toNat_shiftLeft, BitVec.toNat_ofNat, Nat.or_mod_two_pow, hbs32, hrc32]

/-! ### The outcomes of a KEYGEN -/

/-- A KEYGEN on a long enough key: slots that hold its slices, RKINFO that records their count and size, and no other
change but the completion's (R111, R113, R114). -/
theorem runKeygen_loads (p : Params) (need : Nat) (c : ErrCode) (rc bs : Nat) (s : State) (hlong : need ≤ s.mkLen.toNat)
    (hn : rc * bs ≤ need) (hrc : rc ≤ 4) (hbs : bs ≤ 8) :
    ∃ (slots : List Block) (info : RkInfo), slots.length = p.rkSlots ∧
      (∀ k j : Nat, k < slots.length → j < 8 → (slots[k]?).map (fun b => byteAt b j) =
        some (if k < rc ∧ j < bs then keyByte s.mkey (k * bs + j) else 0x00#8)) ∧
      rkInfoWord info = BitVec.ofNat 32 ((2 ^ min rc p.rkSlots - 1) ||| (bs <<< 8) ||| (rc <<< 16)) ∧
      runKeygen p need c rc bs s = done { s with rk := slots, rkinfo := info } := by
  have hvalid : 2 ^ min rc p.rkSlots - 1 < 16 := by
    have : 2 ^ min rc p.rkSlots ≤ 2 ^ 4 := Nat.pow_le_pow_right (by decide) (by omega)
    omega
  refine ⟨_, _, scheduleSlots_length p.rkSlots _, fun k j hk hj => ?_,
    rkInfoWord_ofNat _ bs rc hvalid (by omega) (by omega), runKeygen_of_long p need c rc bs s hlong hn⟩
  rw [scheduleSlots_length] at hk
  exact byteAt_scheduleSlots p.rkSlots s.mkey rc bs k j hk hj

/-- Settles O18: the generic form needs rc * bs bytes, and on this hardware no slot is missing, so that VALID is not cut. -/
theorem keygenSlicesTheKey : Obligations.KeygenSlicesTheKey := by
  intro s rc bs _ hrc _ hbs hlong slices record
  have loads (p : Params) : ∃ (slots : List Block) (info : RkInfo), slots.length = p.rkSlots ∧ slices slots ∧
      record (2 ^ min rc p.rkSlots - 1) info ∧
      execWith p (.keygen rc bs) s = .next (done { s with rk := slots, rkinfo := info }) := by
    obtain ⟨slots, info, hcount, hslices, hrecord, hrun⟩ :=
      runKeygen_loads p (rc * bs) .rkCount rc bs s hlong (Nat.le_refl _) hrc hbs
    exact ⟨slots, info, hcount, hslices, hrecord, congrArg _ hrun⟩
  have hardwareLoads := loads hwParams
  rw [hwParams_rkSlots, Nat.min_eq_left hrc, ← exec_eq_execWith] at hardwareLoads
  exact ⟨hardwareLoads, loads⟩

/-- Settles O19: the schemes are KEYGENs of 8-byte slices, three and two, which leave no byte of their slots to padding. -/
theorem schemeKeygenSlicesTheKey : Obligations.SchemeKeygenSlicesTheKey := by
  intro s slices record
  have loads (need rc : Nat) (hlong : need ≤ s.mkLen.toNat) (hn : rc * 8 ≤ need) (hrc : rc ≤ 4) (p : Params) :
      ∃ (slots : List Block) (info : RkInfo), slots.length = p.rkSlots ∧ slices rc slots ∧
        record rc (2 ^ min rc p.rkSlots - 1) info ∧
        (.next (runKeygen p need .keyLen rc 8 s) : Host.Outcome State Fault Refusal) =
          .next (done { s with rk := slots, rkinfo := info }) := by
    obtain ⟨slots, info, hcount, hslices, hrecord, hrun⟩ :=
      runKeygen_loads p need .keyLen rc 8 s hlong hn hrc (Nat.le_refl 8)
    refine ⟨slots, info, hcount, fun k j hk hj => ?_, hrecord, congrArg _ hrun⟩
    simpa only [hj, and_true] using hslices k j hk hj
  refine ⟨fun hlong => ?ede, fun hlong => ?ctr⟩
  case ede =>
    have edeLoads := loads 24 3 hlong (by decide) (by decide)
    exact ⟨edeLoads hwParams, edeLoads⟩
  case ctr =>
    have ctrLoads := loads 16 2 hlong (by decide) (by decide)
    exact ⟨ctrLoads hwParams, ctrLoads⟩

/-- The failure of a KEYGEN, as the statements write it: the schedule cleared and the code reported (R112, R201). -/
theorem keygenFail_eq_failed (p : Params) (c : ErrCode) (s : State) :
    keygenFail p c s = failed c { s with rk := clearedSlots p.rkSlots, rkinfo := clearedInfo } := rfl

/-- Settles O20: each form fails with its own code when the key is shorter than its need, under every parameter. -/
theorem shortKeyClearsTheSchedule : Obligations.ShortKeyClearsTheSchedule := by
  intro s fails
  have short (c : ErrCode) (need rc bs : Nat) (hshort : s.mkLen.toNat < need) (p : Params) :
      (.next (runKeygen p need c rc bs s) : Host.Outcome State Fault Refusal) =
        .next (failed c { s with rk := clearedSlots p.rkSlots, rkinfo := clearedInfo }) := by
    rw [runKeygen_of_short p need c rc bs s hshort, keygenFail_eq_failed]
  refine ⟨fun rc bs _ _ _ _ hshort => ?generic, fun hshort => ?ede, fun hshort => ?ctr⟩
  case generic => exact ⟨short .rkCount (rc * bs) rc bs hshort hwParams, short .rkCount (rc * bs) rc bs hshort⟩
  case ede => exact ⟨short .keyLen 24 3 8 hshort hwParams, short .keyLen 24 3 8 hshort⟩
  case ctr => exact ⟨short .keyLen 16 2 8 hshort hwParams, short .keyLen 16 2 8 hshort⟩

/-! ### The generic form against the triple scheme's -/

/-- Both run the same KEYGEN of three 8-byte slices from 24 bytes, with their own codes (R111, R113). -/
theorem exec_keygen_three_eight (s : State) :
    exec (.keygen 3 8) s = .next (runKeygen hwParams 24 .rkCount 3 8 s) ∧
      exec .keygenEde s = .next (runKeygen hwParams 24 .keyLen 3 8 s) :=
  ⟨rfl, rfl⟩

/-- Settles O27: a load does not read the code, and a failure writes nothing else from it. -/
theorem genericKeygenAgreesWithEde : Obligations.GenericKeygenAgreesWithEde := by
  intro s
  obtain ⟨hgeneric, hede⟩ := exec_keygen_three_eight s
  rw [hgeneric, hede]
  refine ⟨fun hlong => ?same, fun hshort t u ht hu => ?codes⟩
  case same =>
    have loads (c : ErrCode) := runKeygen_of_long hwParams 24 c 3 8 s hlong (by decide)
    rw [loads, loads]
  case codes =>
    have fails (c : ErrCode) := runKeygen_of_short hwParams 24 c 3 8 s hshort
    rw [fails, Host.Outcome.next.injEq] at ht hu
    subst ht hu
    exact ⟨rfl, rfl, rfl⟩

end Sys2Proof.Proofs
end

section
/-! PROOF. The round function (O12, O29): F in the statements' own formulas, ROUNDF's completion, and what a nibble of F
depends on. -/

namespace Sys2Proof.Proofs

open Sys2Proof.Machine Sys2Proof.Claims

/-! ### The lanes -/

/-- Lane i is nibble i of x through its table, in the statements' formulas (R103, R130). -/
theorem laneOut_eq_entryAt (sb : Vector SboxTable sbTables) (x : Half) (i : Nat) :
    laneOut sb x i = entryAt sb[Fin.ofNat sbTables i] (nibbleAt x i) := by
  rw [laneOut, sboxLookup_eq_entryAt, nibbleOf_eq_nibbleAt]

/-- Lanes 0..3 read the tables of their own index (R103, R130). -/
theorem laneOut_fin (sb : Vector SboxTable sbTables) (x : Half) (i : Fin sbTables) :
    laneOut sb x i.val = entryAt sb[i] (nibbleAt x i.val) := by
  simp [laneOut_eq_entryAt]

/-- A nibble placed in a halfword keeps its place in the word. -/
theorem setWidth_nibble_shift (v : Nibble) (lo : Nat) (h : lo + 4 ≤ 16) :
    (v.setWidth 16 <<< lo).setWidth 32 = v.setWidth 32 <<< lo := by
  refine BitVec.eq_of_getLsbD_eq fun i hi => ?_
  rw [field_getLsbD, BitVec.getLsbD_setWidth, BitVec.getLsbD_shiftLeft, BitVec.getLsbD_setWidth]
  by_cases hin : i < lo + 4
  · grind
  · have hpast : 4 ≤ i - lo := by omega
    simp [BitVec.getLsbD_of_ge v (i - lo) hpast]

/-- Four lanes side by side, each as its own field of the word. -/
theorem setWidth_fourLanes (sb : Vector SboxTable sbTables) (x : Half) (i : Nat) :
    (fourLanes sb x i).setWidth 32 =
      (laneOut sb x (i + 3)).setWidth 32 <<< 12 ||| (laneOut sb x (i + 2)).setWidth 32 <<< 8 |||
        (laneOut sb x (i + 1)).setWidth 32 <<< 4 ||| (laneOut sb x i).setWidth 32 := by
  have hlowest : ((laneOut sb x i).setWidth 16).setWidth 32 = (laneOut sb x i).setWidth 32 :=
    BitVec.setWidth_setWidth (by decide)
  rw [fourLanes, BitVec.setWidth_or, BitVec.setWidth_or, BitVec.setWidth_or, setWidth_nibble_shift _ 12 (by decide),
    setWidth_nibble_shift _ 8 (by decide), setWidth_nibble_shift _ 4 (by decide), hlowest]

/-- Nibble i of lanes 0..3 is lane i. -/
theorem nibbleOf_fourLanes (sb : Vector SboxTable sbTables) (x : Half) (i : Nat) (h : i < 4) :
    nibbleOf ((fourLanes sb x 0).setWidth 32) i = laneOut sb x i := by
  have hpack : (fourLanes sb x 0).setWidth 32 = packNibbles fun j => if j < 4 then laneOut sb x j else 0#4 := by
    simp [setWidth_fourLanes, packNibbles]
  rw [hpack, nibbleOf_packNibbles _ i (by omega), if_pos h]

/-- The statements OR the lanes lowest first, the model highest first. -/
theorem or_four_reverse (a b c d : Word) : a ||| b ||| c ||| d = d ||| c ||| b ||| a := by ac_rfl

/-- Four lanes side by side, in the statements' formulas (R130). -/
theorem setWidth_fourLanes_eq_entries (sb : Vector SboxTable sbTables) (x : Half) (i : Nat) :
    (fourLanes sb x i).setWidth 32 =
      (entryAt sb[Fin.ofNat sbTables i] (nibbleAt x i)).setWidth 32 |||
        (entryAt sb[Fin.ofNat sbTables (i + 1)] (nibbleAt x (i + 1))).setWidth 32 <<< 4 |||
        (entryAt sb[Fin.ofNat sbTables (i + 2)] (nibbleAt x (i + 2))).setWidth 32 <<< 8 |||
        (entryAt sb[Fin.ofNat sbTables (i + 3)] (nibbleAt x (i + 3))).setWidth 32 <<< 12 := by
  rw [setWidth_fourLanes, or_four_reverse]
  simp only [laneOut_eq_entryAt]

/-! ### F in the statements' formulas -/

/-- x of R130. -/
theorem roundInput_eq_xor_keyWord (h : Half) (k : Key4) : roundInput h k = h ^^^ keyWord k := rfl

/-- HIGH(x) in bits 31:16, for each RF_HIGH (R130). -/
theorem highPart_shift_eq_highOutput (rf : RfHigh) (sb : Vector SboxTable sbTables) (x : Half) :
    (highPart rf sb x).setWidth 32 <<< 16 = highOutput rf sb x := by
  cases rf
  case zero => rfl
  case pass => exact extract_shift_eq_and x 16 16 0xFFFF0000#32 (by decide)
  case subst8 =>
    rw [highPart, setWidth_fourLanes_eq_entries]
    simp only [BitVec.shiftLeft_or_distrib, ← BitVec.shiftLeft_add]
    rfl

/-- F of R130 is the model's round function, under every RF_HIGH and RK4_SEL. -/
theorem roundFn_eq_roundOutput (p : Params) (sb : Vector SboxTable sbTables) (h : Half) (k8 : Block) (r : Fin rounds) :
    roundFn p.rfHigh sb h (p.rk4Sel k8 r) = roundOutput p sb h k8 r := by
  rw [roundFn, ← roundInput_eq_xor_keyWord, highPart_shift_eq_highOutput, setWidth_fourLanes_eq_entries,
    BitVec.or_comm]
  rfl

/-! ### ROUNDF -/

/-- RK[k], as the statements write it (R33). -/
theorem slotKey_eq_slot (s : State) (k : Nat) : slotKey s k = slot s k := List.getD_eq_getElem?_getD

/-- A command that reads one slot, when that slot is valid: its results and the completion (R200, R204). -/
theorem withKeys_one_of_valid (k : Nat) (f : State → State) (s : State) (h : valid s k) :
    withKeys [k] f s = done (f s) :=
  withKeys_of_valid [k] f s (List.forall_mem_singleton.mpr h)

/-- Settles O12: ROUNDF reads one slot, and its result is F. -/
theorem roundfWritesTheRoundFunction : Obligations.RoundfWritesTheRoundFunction := by
  intro s k r hvalid
  have writesF (p : Params) :
      execWith p (.roundf k r) s = .next (done { s with res := roundOutput p s.sbox s.din.lo (slot s k.val) r }) := by
    rw [execWith, roundfWith, withKeys_one_of_valid k.val _ s hvalid, roundFn_eq_roundOutput, slotKey_eq_slot]
  refine ⟨?_, writesF⟩
  rw [exec_eq_execWith, hwParams_eq_hardware]
  exact writesF hardware

/-! ### What F depends on -/

/-- Nibble i of F, for i in 0..3, is nibble i of x through table i: HIGH(x) lies above it (R130). -/
theorem nibbleAt_roundFn (rf : RfHigh) (sb : Vector SboxTable 4) (h : Half) (k : Key4) (i : Fin 4) :
    nibbleAt (roundFn rf sb h k) i.val = entryAt sb[i] (nibbleAt (roundInput h k) i.val) := by
  have habove : nibbleOf ((highPart rf sb (roundInput h k)).setWidth 32 <<< 16) i.val = 0#4 :=
    field_extract_other _ 16 (4 * i.val) 4 (.inr (by omega))
  have hlane := nibbleOf_fourLanes sb (roundInput h k) i.val i.isLt
  rw [nibbleOf] at habove hlane
  rw [← nibbleOf_eq_nibbleAt, roundFn, ← roundInput_eq_xor_keyWord, nibbleOf, BitVec.extractLsb'_or, habove, hlane,
    BitVec.zero_or, laneOut_fin]

/-- Under ZERO bits 31:16 of F are 0 (R130, R133). -/
theorem roundFn_zero_upper (sb : Vector SboxTable sbTables) (h : Half) (k : Key4) :
    roundFn .zero sb h k >>> 16 = 0#32 := by
  rw [roundFn, highPart_shift_eq_highOutput, highOutput, BitVec.zero_or, ← BitVec.setWidth_ushiftRight (by decide),
    BitVec.ushiftRight_eq_zero (Nat.le_refl 16), BitVec.setWidth_zero]

/-- Under ZERO, F XORed into a half leaves bits 31:16 as they are (R133). -/
theorem xor_roundFn_zero_upper (a : Half) (sb : Vector SboxTable sbTables) (h : Half) (k : Key4) :
    (a ^^^ roundFn .zero sb h k) >>> 16 = a >>> 16 := by
  rw [BitVec.ushiftRight_xor_distrib, roundFn_zero_upper, BitVec.xor_zero]

/-- Settles O29: a nibble of F is a function of its own nibble and table, and a round XORs F into one half. -/
theorem roundFunctionIsNibbleLocal : Obligations.RoundFunctionIsNibbleLocal := by
  refine ⟨fun rf rf' sb sb' h h' k k' i hx htable => ?lane, roundFn_zero_upper, fun p sb k8 h r hzero => ?rounds⟩
  case lane => rw [nibbleAt_roundFn, nibbleAt_roundFn, hx, htable]
  case rounds =>
    rw [encRound, decRound, hzero]
    exact ⟨xor_roundFn_zero_upper _ sb _ _, rfl, xor_roundFn_zero_upper _ sb _ _, rfl⟩

end Sys2Proof.Proofs
end

section
/-! PROOF. The block transform (O13, O14, O30, O31, O32, O33): the rounds one at a time and in their order, how an encrypt
and a decrypt round undo and mirror each other, and where bits 31:16 of the halves go. -/

namespace Sys2Proof.Proofs

open Sys2Proof.Machine Sys2Proof.Claims

/-! ### The rounds in their order -/

/-- The halves of b after the first n rounds of `order`. -/
def halvesAfter (round : Halves → Fin rounds → Halves) (order : List (Fin rounds)) (b : Block) (n : Nat) : Halves :=
  (order.take n).foldl round (splitBlock b)

/-- The round that follows n others is the one in place n of the order. -/
theorem halvesAfter_succ (round : Halves → Fin rounds → Halves) (order : List (Fin rounds)) (b : Block) (n : Nat)
    (r : Fin rounds) (h : order[n]? = some r) :
    halvesAfter round order b (n + 1) = round (halvesAfter round order b n) r := by
  simp [halvesAfter, List.take_add_one, h]

theorem halvesAfter_all (round : Halves → Fin rounds → Halves) (order : List (Fin rounds)) (b : Block) (n : Nat)
    (h : order.length ≤ n) : halvesAfter round order b n = order.foldl round (splitBlock b) := by
  rw [halvesAfter, List.take_of_length_le h]

@[simp] theorem length_roundIndexes : roundIndexes.length = 16 := List.length_finRange

/-- Ascending, round r follows r others (R140). -/
theorem roundIndexes_getElem? (r : Fin rounds) : roundIndexes[r.val]? = some r := by
  simp [roundIndexes]

/-- Descending, round r follows 15 - r others (R141). -/
theorem roundIndexes_reverse_getElem? (r : Fin rounds) : roundIndexes.reverse[15 - r.val]? = some r := by
  have hr : r.val ≤ 15 := Nat.le_of_lt_succ r.isLt
  rw [List.getElem?_reverse (by simp; omega), length_roundIndexes]
  have hplace : 16 - 1 - (15 - r.val) = r.val := by omega
  rw [hplace, roundIndexes_getElem?]

/-- One encrypt round in the statements' formula of F (R140). -/
theorem encRound_eq (p : Params) (sb : Vector SboxTable sbTables) (k8 : Block) (h : Halves) (r : Fin rounds) :
    encRound p sb k8 h r = ⟨h.right, h.left ^^^ roundOutput p sb h.right k8 r⟩ := by
  rw [encRound, roundFn_eq_roundOutput]

/-- One decrypt round in the statements' formula of F (R141). -/
theorem decRound_eq (p : Params) (sb : Vector SboxTable sbTables) (k8 : Block) (h : Halves) (r : Fin rounds) :
    decRound p sb k8 h r = ⟨h.right ^^^ roundOutput p sb h.left k8 r, h.left⟩ := by
  rw [decRound, roundFn_eq_roundOutput]

/-- `encBlock` is the statements' ENC: its halves after each round are those of R140. -/
theorem isEnc_encBlock (p : Params) (sb : Vector SboxTable sbTables) (k b : Block) : IsEnc p sb k b (encBlock p sb k b) := by
  let halves := halvesAfter (encRound p sb k) roundIndexes b
  refine ⟨fun n => (halves n).left, fun n => (halves n).right, rfl, rfl, fun r => ?round, ?output⟩
  case round =>
    have hstep : halves (r.val + 1) = encRound p sb k (halves r.val) r :=
      halvesAfter_succ _ _ _ _ _ (roundIndexes_getElem? r)
    rw [encRound_eq] at hstep
    exact ⟨congrArg Halves.left hstep, congrArg Halves.right hstep⟩
  case output =>
    have hlast : halves 16 = roundIndexes.foldl (encRound p sb k) (splitBlock b) := halvesAfter_all _ _ _ _ (by simp)
    exact congrArg (fun h : Halves => joinHalves h.right h.left) hlast.symm

/-- `decBlock` is the statements' DEC: its halves after each round are those of R141. -/
theorem isDec_decBlock (p : Params) (sb : Vector SboxTable sbTables) (k b : Block) : IsDec p sb k b (decBlock p sb k b) := by
  let halves := halvesAfter (decRound p sb k) roundIndexes.reverse b
  refine ⟨fun n => (halves n).left, fun n => (halves n).right, rfl, rfl, fun r => ?round, ?output⟩
  case round =>
    have hstep : halves (15 - r.val + 1) = decRound p sb k (halves (15 - r.val)) r :=
      halvesAfter_succ _ _ _ _ _ (roundIndexes_reverse_getElem? r)
    rw [decRound_eq] at hstep
    exact ⟨congrArg Halves.left hstep, congrArg Halves.right hstep⟩
  case output =>
    have hlast : halves 16 = roundIndexes.reverse.foldl (decRound p sb k) (splitBlock b) :=
      halvesAfter_all _ _ _ _ (by simp)
    exact congrArg (fun h : Halves => joinHalves h.left h.right) hlast.symm

/-- Settles O31: the halves after each round are the sequences that IsEnc and IsDec ask for. -/
theorem roundsTakeTheirOwnKeyBytes : Obligations.RoundsTakeTheirOwnKeyBytes := fun p sb k b =>
  ⟨isEnc_encBlock p sb k b, isDec_decBlock p sb k b⟩

/-! ### FENC and FDEC -/

/-- FENC under a valid slot (R142). -/
theorem execWith_fenc_of_valid (p : Params) (k : Fin slotCodes) (s : State) (h : valid s k.val) :
    execWith p (.fenc k) s = .next (done { s with dout := encBlock p s.sbox (slot s k.val) s.din }) := by
  rw [execWith, fencWith, withKeys_one_of_valid k.val _ s h, slotKey_eq_slot]

/-- FDEC under a valid slot (R143). -/
theorem execWith_fdec_of_valid (p : Params) (k : Fin slotCodes) (s : State) (h : valid s k.val) :
    execWith p (.fdec k) s = .next (done { s with dout := decBlock p s.sbox (slot s k.val) s.din }) := by
  rw [execWith, fdecWith, withKeys_one_of_valid k.val _ s h, slotKey_eq_slot]

/-- Settles O13: FENC reads one slot, and its result is ENC. -/
theorem fencEncryptsDin : Obligations.FencEncryptsDin := by
  intro s k hvalid
  have encrypts (p : Params) : ∃ o, IsEnc p s.sbox (slot s k.val) s.din o ∧
      execWith p (.fenc k) s = .next (done { s with dout := o }) :=
    ⟨_, isEnc_encBlock p s.sbox (slot s k.val) s.din, execWith_fenc_of_valid p k s hvalid⟩
  refine ⟨?_, encrypts⟩
  rw [exec_eq_execWith, hwParams_eq_hardware]
  exact encrypts hardware

/-- Settles O14: FDEC reads one slot, and its result is DEC. -/
theorem fdecDecryptsDin : Obligations.FdecDecryptsDin := by
  intro s k hvalid
  have decrypts (p : Params) : ∃ o, IsDec p s.sbox (slot s k.val) s.din o ∧
      execWith p (.fdec k) s = .next (done { s with dout := o }) :=
    ⟨_, isDec_decBlock p s.sbox (slot s k.val) s.din, execWith_fdec_of_valid p k s hvalid⟩
  refine ⟨?_, decrypts⟩
  rw [exec_eq_execWith, hwParams_eq_hardware]
  exact decrypts hardware

/-! ### Encrypt rounds against decrypt rounds -/

/-- The halves exchanged: (L, R) becomes (R, L). -/
def exchange (h : Halves) : Halves := ⟨h.right, h.left⟩

/-- The swap of R145: bytes 4..7 of a block, then its bytes 0..3. -/
def swapBlock (b : Block) : Block := ⟨b.lo, b.hi⟩

theorem exchange_involutive : Function.Involutive exchange := fun _ => rfl

theorem swapBlock_involutive : Function.Involutive swapBlock := fun _ => rfl

/-- A decrypt round undoes the encrypt round of its own index, under every RK4_SEL. -/
theorem decRound_encRound (p : Params) (sb : Vector SboxTable sbTables) (k8 : Block) (h : Halves) (r : Fin rounds) :
    decRound p sb k8 (encRound p sb k8 h r) r = h := by
  simp [decRound, encRound]

/-- A decrypt round is the encrypt round seen with the halves exchanged. -/
theorem decRound_exchange (p : Params) (sb : Vector SboxTable sbTables) (k8 : Block) (h : Halves) (r : Fin rounds) :
    decRound p sb k8 (exchange h) r = exchange (encRound p sb k8 h r) := rfl

/-- Rounds that undo each other one by one, taken in the opposite order, undo a run of rounds. -/
theorem foldl_reverse_undoes (f g : Halves → Fin rounds → Halves) (hundo : ∀ h r, g (f h r) r = h)
    (order : List (Fin rounds)) (h : Halves) : order.reverse.foldl g (order.foldl f h) = h := by
  induction order generalizing h with
  | nil => rfl
  | cons r order ih => simp only [List.reverse_cons, List.foldl_append, List.foldl_cons, List.foldl_nil, ih, hundo]

/-- Law (c) of R145, under every RK4_SEL. -/
theorem decBlock_swapBlock_encBlock (p : Params) (sb : Vector SboxTable sbTables) (k b : Block) :
    decBlock p sb k (swapBlock (encBlock p sb k b)) = b := by
  have hundone := foldl_reverse_undoes _ _ (decRound_encRound p sb k) roundIndexes (splitBlock b)
  rw [decBlock]
  exact congrArg (fun h : Halves => joinHalves h.left h.right) hundone

/-- When every round takes the same key bytes, a run of rounds is the same in either order. -/
theorem foldl_decRound_reverse (p : Params) (sb : Vector SboxTable sbTables) (k : Block)
    (hsame : ∀ r, p.rk4Sel k r = p.rk4Sel k 0) (order : List (Fin rounds)) (h : Halves) :
    order.reverse.foldl (decRound p sb k) h = order.foldl (decRound p sb k) h := by
  have hconst : decRound p sb k = fun h _ => decRound p sb k h 0 := by
    funext h r
    rw [decRound, decRound, hsame r]
  rw [hconst, List.foldl_const, List.foldl_const, List.length_reverse]

/-- Law (b) of R145, for any selection that gives every round the same key bytes. -/
theorem decBlock_eq_encBlock_swapBlock (p : Params) (sb : Vector SboxTable sbTables) (k : Block)
    (hsame : ∀ r, p.rk4Sel k r = p.rk4Sel k 0) (b : Block) : decBlock p sb k b = encBlock p sb k (swapBlock b) := by
  have hsplit : splitBlock b = exchange (splitBlock (swapBlock b)) := rfl
  rw [decBlock, foldl_decRound_reverse p sb k hsame, hsplit, List.foldl_hom exchange (decRound_exchange p sb k)]
  rfl

/-- Settles O30: (b) and (c) are the rounds' two laws; (a) and (d) follow from them. -/
theorem encryptAndDecryptLaws : Obligations.EncryptAndDecryptLaws := by
  intro rf sb k b p swap
  have mirror (c : Block) : decBlock p sb k c = encBlock p sb k (swapBlock c) :=
    decBlock_eq_encBlock_swapBlock p sb k (fun _ => rfl) c
  have undo : decBlock p sb k (swapBlock (encBlock p sb k b)) = b := decBlock_swapBlock_encBlock p sb k b
  have involution : encBlock p sb k (encBlock p sb k b) = b := by
    rw [mirror, swapBlock_involutive] at undo
    exact undo
  exact ⟨involution, mirror b, undo, mirror (encBlock p sb k b)⟩

/-! ### The example of R144 -/

/-- R144's example: DEC of ENC of the zero block, under TS_A. -/
theorem decBlock_encBlock_tablesA :
    decBlock hardware tablesA ⟨0x01234567#32, 0x89ABCDEF#32⟩
      (encBlock hardware tablesA ⟨0x01234567#32, 0x89ABCDEF#32⟩ ⟨0#32, 0#32⟩) = ⟨0x00000060#32, 0x000009B8#32⟩ := by
  decide +kernel

/-- Settles O32: the example is the model's, and it is not the zero block it started from. -/
theorem encryptAndDecryptAreNotInverses : Obligations.EncryptAndDecryptAreNotInverses := by
  refine ⟨fun hinverse => ?_, _, isEnc_encBlock _ _ _ _, decBlock_encBlock_tablesA ▸ isDec_decBlock _ _ _ _⟩
  have hzero := decBlock_encBlock_tablesA.symm.trans (hinverse _ _ _)
  exact absurd hzero (by decide)

/-! ### Bits 31:16 of the halves -/

/-- Bits 31:16 of both halves. -/
def uppers (h : Halves) : Halves := ⟨h.left >>> 16, h.right >>> 16⟩

theorem uppers_eq_iff (h h' : Halves) :
    uppers h = uppers h' ↔ h.left >>> 16 = h'.left >>> 16 ∧ h.right >>> 16 = h'.right >>> 16 := by
  simp [uppers]

theorem uppers_exchange (h : Halves) : uppers (exchange h) = exchange (uppers h) := rfl

/-- Under ZERO an encrypt round exchanges bits 31:16 of the halves (R146). -/
theorem uppers_encRound (p : Params) (sb : Vector SboxTable sbTables) (k8 : Block) (hzero : p.rfHigh = .zero) (h : Halves)
    (r : Fin rounds) : uppers (encRound p sb k8 h r) = uppers (exchange h) := by
  rw [encRound, hzero, uppers, xor_roundFn_zero_upper]
  rfl

/-- Under ZERO a decrypt round exchanges bits 31:16 of the halves (R146). -/
theorem uppers_decRound (p : Params) (sb : Vector SboxTable sbTables) (k8 : Block) (hzero : p.rfHigh = .zero) (h : Halves)
    (r : Fin rounds) : uppers (decRound p sb k8 h r) = uppers (exchange h) := by
  rw [decRound, hzero, uppers, xor_roundFn_zero_upper]
  rfl

/-- Exchanged an even number of times, bits 31:16 are back in their halves. -/
theorem uppers_foldl (round : Halves → Fin rounds → Halves) (hround : ∀ h r, uppers (round h r) = uppers (exchange h))
    (order : List (Fin rounds)) (heven : Even order.length) (h : Halves) : uppers (order.foldl round h) = uppers h := by
  have hfold : order.foldl (fun u _ => exchange u) (uppers h) = uppers (order.foldl round h) :=
    List.foldl_hom uppers fun h r => ((hround h r).trans (uppers_exchange h)).symm
  rw [← hfold, List.foldl_const, exchange_involutive.iterate_even heven, id]

/-- The upper two bytes of a word are those of its bits 31:16. -/
theorem upper_byte_eq (w w' : Word) (hupper : w >>> 16 = w' >>> 16) (j : Nat) (hj : j < 2) :
    (w >>> (24 - 8 * j)).setWidth 8 = (w' >>> (24 - 8 * j)).setWidth 8 := by
  have hshift : 24 - 8 * j = 16 + (8 - 8 * j) := by omega
  rw [hshift, BitVec.shiftRight_add, BitVec.shiftRight_add, hupper]

/-- Bytes 0..1 and 4..5 of a block are bits 31:16 of its halves. -/
theorem upper_bytes_of_uppers (b : Block) (h : Halves) (hupper : uppers h = uppers (splitBlock b)) (j : Nat) (hj : j < 2) :
    (byteAt (joinHalves h.left h.right) j = byteAt b j ∧ byteAt (joinHalves h.left h.right) (j + 4) = byteAt b (j + 4)) ∧
    byteAt (joinHalves h.right h.left) j = byteAt b (j + 4) ∧ byteAt (joinHalves h.right h.left) (j + 4) = byteAt b j := by
  obtain ⟨hleft, hright⟩ := (uppers_eq_iff _ _).mp hupper
  simp only [← byteAt_hi _ j (by omega), ← byteAt_lo _ j (by omega)]
  exact ⟨⟨upper_byte_eq _ _ hleft j hj, upper_byte_eq _ _ hright j hj⟩,
    upper_byte_eq _ _ hright j hj, upper_byte_eq _ _ hleft j hj⟩

/-- Settles O33: each round exchanges bits 31:16 of the halves, sixteen rounds bring them back, and ENC's output exchanges
the halves where DEC's does not. -/
theorem upperHalfwordsOnlyChangePlaces : Obligations.UpperHalfwordsOnlyChangePlaces := by
  intro p sb k hzero
  have henc := uppers_encRound p sb k hzero
  have hdec := uppers_decRound p sb k hzero
  have hencAll := uppers_foldl _ henc roundIndexes (by simp [Nat.even_iff])
  have hdecAll := uppers_foldl _ hdec roundIndexes.reverse (by simp [Nat.even_iff])
  refine ⟨fun h r => ⟨?encrypt, ?decrypt⟩, fun h => (uppers_eq_iff _ h).mp (hencAll h), fun b j hj => ?bytes⟩
  case encrypt => exact (uppers_eq_iff _ (exchange h)).mp (henc h r)
  case decrypt => exact (uppers_eq_iff _ (exchange h)).mp (hdec h r)
  case bytes =>
    obtain ⟨-, henc0, henc4⟩ := upper_bytes_of_uppers b _ (hencAll (splitBlock b)) j hj
    obtain ⟨⟨hdec0, hdec4⟩, -⟩ := upper_bytes_of_uppers b _ (hdecAll (splitBlock b)) j hj
    exact ⟨henc0, henc4, hdec0, hdec4⟩

end Sys2Proof.Proofs
end

section
/-! PROOF. The triple-EDE mode (O15, O34) and what EDE and CTR read of DIN (O39): the chunk as the first bytes of a block, and
the three passes over it. -/

namespace Sys2Proof.Proofs

open Sys2Proof.Machine Sys2Proof.Claims

/-! ### The chunk -/

/-- The bytes of a zero-padded chunk, in the statements' formula (R160, R162). -/
theorem byteAt_keepFirst (n : Nat) (b : Block) (j : Nat) (h : j < 8) :
    byteAt (keepFirst n b) j = if j < n then byteAt b j else 0x00#8 := by
  rw [byteAt_eq_blockByte _ j h, byteAt_eq_blockByte _ j h, blockByte_keepFirst n b j h]

/-- A chunk is determined by its first n bytes. -/
theorem keepFirst_congr (n : Nat) (a b : Block) (h : ∀ j, j < n → byteAt a j = byteAt b j) :
    keepFirst n a = keepFirst n b := by
  refine block_eq_of_bytes _ _ fun j hj => ?_
  rw [← byteAt_eq_blockByte _ j hj, ← byteAt_eq_blockByte _ j hj, byteAt_keepFirst n a j hj, byteAt_keepFirst n b j hj]
  split
  · next hlt => exact h j hlt
  · rfl

theorem keepFirst_xorBlock (n : Nat) (a b : Block) :
    keepFirst n (xorBlock a b) = xorBlock (keepFirst n a) (keepFirst n b) := by
  refine block_eq_of_bytes _ _ fun j hj => ?_
  rw [blockByte_xorBlock, blockByte_keepFirst n _ j hj, blockByte_keepFirst n a j hj, blockByte_keepFirst n b j hj]
  split
  · exact blockByte_xorBlock a b j
  · rfl

/-! ### The three passes -/

/-- EDE under valid slots 0 to 2 (R161). -/
theorem execWith_ede_of_valid (p : Params) (len : Nat) (s : State) (h0 : valid s 0) (h1 : valid s 1) (h2 : valid s 2) :
    execWith p (.ede len) s =
      .next (done { s with dout := ede3 p s.sbox (slot s 0) (slot s 1) (slot s 2) len s.din }) := by
  have hvalid : ∀ k ∈ [0, 1, 2], slotValid s k = true := by
    rw [List.forall_mem_cons, List.forall_mem_cons, List.forall_mem_singleton]
    exact ⟨h0, h1, h2⟩
  rw [execWith, edeWith, withKeys_of_valid _ _ s hvalid, completeOk_eq_done]
  simp only [slotKey_eq_slot]

/-- Settles O15: EDE3 pads the chunk, runs the statements' ENC, DEC and ENC, and keeps the chunk's bytes. -/
theorem edeRunsThreePasses : Obligations.EdeRunsThreePasses := by
  intro s len _ _ h0 h1 h2 passes
  have runs (p : Params) : ∃ o, passes p o ∧ execWith p (.ede len) s = .next (done { s with dout := o }) :=
    ⟨_, ⟨keepFirst len s.din, _, _, _, byteAt_keepFirst len s.din, isEnc_encBlock p s.sbox (slot s 0) _,
      isDec_decBlock p s.sbox (slot s 1) _, isEnc_encBlock p s.sbox (slot s 2) _, byteAt_keepFirst len _⟩,
      execWith_ede_of_valid p len s h0 h1 h2⟩
  refine ⟨?_, runs⟩
  rw [exec_eq_execWith, hwParams_eq_hardware]
  exact runs hardware

/-! ### The bytes that pass through -/

/-- Under ZERO bytes 0..1 and 4..5 change places in both encrypt passes and keep theirs in the decrypt pass, so the three
passes bring them back (R146, R164). -/
theorem upper_bytes_of_threePasses (p : Params) (hzero : p.rfHigh = .zero) (sb : Vector SboxTable sbTables)
    (k0 k1 k2 b : Block) (j : Nat) (hj : j < 2) :
    byteAt (encBlock p sb k2 (decBlock p sb k1 (encBlock p sb k0 b))) j = byteAt b j ∧
    byteAt (encBlock p sb k2 (decBlock p sb k1 (encBlock p sb k0 b))) (j + 4) = byteAt b (j + 4) := by
  have passBytes (k c : Block) := (upperHalfwordsOnlyChangePlaces p sb k hzero).2.2 c j hj
  obtain ⟨hfirstLeft, hfirstRight, -, -⟩ := passBytes k0 b
  obtain ⟨-, -, hsecondLeft, hsecondRight⟩ := passBytes k1 (encBlock p sb k0 b)
  obtain ⟨hthirdLeft, hthirdRight, -, -⟩ := passBytes k2 (decBlock p sb k1 (encBlock p sb k0 b))
  exact ⟨hthirdLeft.trans (hsecondRight.trans hfirstRight), hthirdRight.trans (hsecondLeft.trans hfirstLeft)⟩

/-- Under ZERO, EDE3 passes bytes 0, 1, 4 and 5 of the chunk through (R164). -/
theorem byteAt_ede3_of_upper (p : Params) (hzero : p.rfHigh = .zero) (sb : Vector SboxTable sbTables)
    (k0 k1 k2 : Block) (n : Nat) (b : Block) (j : Nat) (hn : j < n) (hj : j = 0 ∨ j = 1 ∨ j = 4 ∨ j = 5) :
    byteAt (ede3 p sb k0 k1 k2 n b) j = byteAt b j := by
  have h8 : j < 8 := by omega
  have hpadded : byteAt (keepFirst n b) j = byteAt b j := by rw [byteAt_keepFirst n b j h8, if_pos hn]
  have through := upper_bytes_of_threePasses p hzero sb k0 k1 k2 (keepFirst n b)
  rw [ede3, byteAt_keepFirst n _ j h8, if_pos hn, ← hpadded]
  rcases hj with rfl | rfl | rfl | rfl
  · exact (through 0 (by decide)).1
  · exact (through 1 (by decide)).1
  · exact (through 0 (by decide)).2
  · exact (through 1 (by decide)).2

/-- Settles O34: this hardware's RF_HIGH is ZERO, and a chunk of 1 or 2 bytes has only bytes 0 and 1. -/
theorem edePassesDiffusionLightBytes : Obligations.EdePassesDiffusionLightBytes := by
  intro s len _ _ h0 h1 h2
  have through := byteAt_ede3_of_upper hwParams hwParams_rfHigh s.sbox (slot s 0) (slot s 1) (slot s 2) len s.din
  refine ⟨_, (exec_eq_execWith _ s).trans (execWith_ede_of_valid hwParams len s h0 h1 h2), through, fun hshort j hj => ?_⟩
  have hupper : j = 0 ∨ j = 1 := by omega
  exact through j hj (hupper.imp_right .inl)

/-! ### What EDE and CTR read of DIN -/

/-- The slot check does not read DIN. -/
theorem withKeys_din (ks : List Nat) (f : State → State) (s : State) (d : Block)
    (hf : f { s with din := d } = { f s with din := d }) :
    withKeys ks f { s with din := d } = { withKeys ks f s with din := d } := by
  have hvalid : slotValid { s with din := d } = slotValid s := rfl
  rw [withKeys, withKeys, hf, hvalid]
  split <;> rfl

/-- EDE reads the chunk of DIN and no other byte of it (R161). -/
theorem edeWith_din (p : Params) (len : Nat) (s : State) (d : Block) (h : keepFirst len d = keepFirst len s.din) :
    edeWith p len { s with din := d } = { edeWith p len s with din := d } :=
  withKeys_din _ _ s d (by simp only [ede3, h, slotKey])

/-- CTR reads the chunk of DIN and no other byte of it (R171). -/
theorem ctrWith_din (p : Params) (k : Fin slotCodes) (len : Nat) (s : State) (d : Block)
    (h : keepFirst len d = keepFirst len s.din) :
    ctrWith p k len { s with din := d } = { ctrWith p k len s with din := d } :=
  withKeys_din _ _ s d (by simp only [keepFirst_xorBlock, h, slotKey])

/-- Settles O39: two DINs with the same first len bytes hold the same chunk. -/
theorem chunkCommandsReadOnlyTheChunk : Obligations.ChunkCommandsReadOnlyTheChunk := by
  intro s d len _ _ hagree
  have hchunk : keepFirst len d = keepFirst len s.din := keepFirst_congr len d s.din hagree
  exact ⟨_, rfl, congrArg _ (edeWith_din hwParams len s d hchunk), fun k =>
    ⟨_, rfl, congrArg _ (ctrWith_din hwParams k len s d hchunk)⟩⟩

end Sys2Proof.Proofs
end

section
/-! PROOF. The counter mode (O16, O17, O35, O36, O37, O38): INC64 as arithmetic over a block's bytes, the CTR command, and a
payload as one formula over its chunks and the counters between them. -/

namespace Sys2Proof.Proofs

open Sys2Proof.Machine Sys2Proof.Claims

/-! ### The carry over a list of bytes -/

/-- The number whose bytes, least significant first, are `bs`. -/
def bytesValue (bs : List Byte) : Nat := Nat.ofDigits 256 (bs.map BitVec.toNat)

@[simp] theorem bytesValue_nil : bytesValue [] = 0 := rfl

@[simp] theorem bytesValue_cons (c : Byte) (rest : List Byte) :
    bytesValue (c :: rest) = c.toNat + 256 * bytesValue rest := rfl

theorem bytesValue_lt (bs : List Byte) : bytesValue bs < 256 ^ bs.length := by
  have hdigits : ∀ x ∈ bs.map BitVec.toNat, x < 256 := List.forall_mem_map.mpr fun c _ => c.isLt
  simpa [bytesValue] using Nat.ofDigits_lt_base_pow_length (by decide) hdigits

/-- A byte wraps exactly from 0xFF. -/
theorem add_one_eq_zero_iff (c : Byte) : c + 1#8 = 0#8 ↔ c = 0xFF#8 := by bv_omega

@[simp] theorem length_incBytes (bs : List Byte) : (incBytes bs).length = bs.length := by
  induction bs with
  | nil => rfl
  | cons c rest ih =>
    rw [incBytes]
    split <;> simp [ih]

/-- The carry adds one modulo the number of values that the bytes have (R170). -/
theorem bytesValue_incBytes (bs : List Byte) : bytesValue (incBytes bs) = (bytesValue bs + 1) % 256 ^ bs.length := by
  induction bs with
  | nil => rfl
  | cons c rest ih =>
    rw [incBytes, bytesValue_cons, List.length_cons, Nat.pow_succ']
    split
    · next hwrap =>
      have hcarry : c.toNat + 256 * bytesValue rest + 1 = 256 * (bytesValue rest + 1) := by
        rw [(add_one_eq_zero_iff c).mp hwrap, BitVec.toNat_ofNat]
        omega
      rw [hcarry, Nat.mul_mod_mul_left, bytesValue_cons, ih, BitVec.toNat_ofNat, Nat.zero_mod, Nat.zero_add]
    · next hstop =>
      have hbyte : (c + 1#8).toNat = c.toNat + 1 := by bv_omega
      have hbelow := bytesValue_lt rest
      rw [bytesValue_cons, Nat.mod_eq_of_lt (by omega), hbyte]
      omega

/-- A byte is incremented when every less significant byte carries, and is else kept (R170). -/
theorem incBytes_getElem (bs : List Byte) (i : Nat) (h : i < bs.length) :
    (incBytes bs)[i]'((length_incBytes bs).symm ▸ h) =
      if ∀ b ∈ bs.take i, b = 0xFF#8 then bs[i] + 1#8 else bs[i] := by
  induction bs generalizing i with
  | nil => exact absurd h (Nat.not_lt_zero i)
  | cons c rest ih =>
    cases i with
    | zero => by_cases hwrap : c + 1#8 = 0#8 <;> simp [incBytes, hwrap]
    | succ i =>
      by_cases hfull : c = 0xFF#8
      · simp [incBytes, hfull, ih i (Nat.lt_of_succ_lt_succ h)]
      · simp [incBytes, add_one_eq_zero_iff, hfull]

/-! ### INC64 -/

/-- A block's bytes, least significant first: byte 7 to byte 0 (R170). -/
def bytesUp (b : Block) : List Byte := (List.range blkBytes).reverse.map (blockByte b)

@[simp] theorem length_bytesUp (b : Block) : (bytesUp b).length = 8 := by simp [bytesUp, blkBytes]

theorem bytesUp_getElem (b : Block) (i : Nat) (h : i < (bytesUp b).length) : (bytesUp b)[i] = blockByte b (7 - i) := by
  simp [bytesUp, blkBytes]

/-- A word's number, byte by byte (R10). -/
theorem toNat_eq_bytes (w : Word) : w.toNat =
    (wordByte w 3).toNat + 256 * ((wordByte w 2).toNat + 256 * ((wordByte w 1).toNat + 256 * (wordByte w 0).toNat)) := by
  simp only [wordByte, BitVec.extractLsb'_toNat, Nat.shiftRight_eq_div_pow]
  omega

theorem number_eq_bytesValue (b : Block) : number b = bytesValue (bytesUp b) := by
  have hbytes : bytesUp b = [wordByte b.lo 3, wordByte b.lo 2, wordByte b.lo 1, wordByte b.lo 0,
      wordByte b.hi 3, wordByte b.hi 2, wordByte b.hi 1, wordByte b.hi 0] := rfl
  rw [number, hbytes, toNat_eq_bytes b.hi, toNat_eq_bytes b.lo]
  simp only [bytesValue_cons, bytesValue_nil]
  omega

theorem number_lt (b : Block) : number b < 2 ^ 64 := by
  have hlt := bytesValue_lt (bytesUp b)
  rwa [← number_eq_bytesValue, length_bytesUp] at hlt

theorem blockByte_inc64 (c : Block) (j : Nat) (h : j < 8) :
    blockByte (inc64 c) j = (incBytes (bytesUp c))[7 - j]'(by simp; omega) := by
  have hlen : j < (incBytes (bytesUp c)).reverse.length := by simpa using h
  have hmodel : inc64 c = blockOf fun j => (incBytes (bytesUp c)).reverse.getD j 0x00#8 := rfl
  rw [hmodel, blockByte_blockOf _ j h, List.getD_eq_getElem _ _ hlen, List.getElem_reverse]
  simp

/-- INC64 is the carry over the block's bytes. -/
theorem bytesUp_inc64 (c : Block) : bytesUp (inc64 c) = incBytes (bytesUp c) := by
  refine List.ext_getElem (by simp) fun i hi _ => ?_
  have hi8 : i < 8 := by simpa using hi
  have hback : 7 - (7 - i) = i := by omega
  rw [bytesUp_getElem, blockByte_inc64 c _ (by omega)]
  simp only [hback]

/-- INC64 adds one modulo 2^64 (R170). -/
theorem number_inc64 (c : Block) : number (inc64 c) = (number c + 1) % 2 ^ 64 := by
  rw [number_eq_bytesValue, bytesUp_inc64, bytesValue_incBytes, ← number_eq_bytesValue, length_bytesUp]
  rfl

/-- INC64 applied n times adds n modulo 2^64 (R174). -/
theorem number_iterate_inc64 (n : Nat) (c : Block) : number (inc64^[n] c) = (number c + n) % 2 ^ 64 := by
  induction n with
  | zero => rw [Function.iterate_zero_apply, Nat.add_zero, Nat.mod_eq_of_lt (number_lt c)]
  | succ n ih => rw [Function.iterate_succ_apply', number_inc64, ih, Nat.mod_add_mod, Nat.add_assoc]

/-- The bytes less significant than byte j are the later ones. -/
theorem forall_mem_take_bytesUp (c : Block) (j : Nat) (v : Byte) :
    (∀ b ∈ (bytesUp c).take (7 - j), b = v) ↔ ∀ i, i < 8 → j < i → byteAt c i = v := by
  simp only [List.mem_take_iff_getElem, bytesUp_getElem, length_bytesUp, forall_exists_index]
  constructor
  · intro hlow i hi hji
    have hback : 7 - (7 - i) = i := by omega
    rw [byteAt_eq_blockByte c i hi]
    exact hlow _ (7 - i) (by omega) (by rw [hback])
  · rintro hlater _ m hm rfl
    rw [← byteAt_eq_blockByte c _ (by omega)]
    exact hlater (7 - m) (by omega) (by omega)

/-- Byte j of INC64 (R170). -/
theorem byteAt_inc64 (c : Block) (j : Nat) (h : j < 8) :
    byteAt (inc64 c) j =
      if ∀ i, i < 8 → j < i → byteAt c i = 0xFF#8 then byteAt c j + 1#8 else byteAt c j := by
  have hback : 7 - (7 - j) = j := by omega
  rw [byteAt_eq_blockByte _ j h, blockByte_inc64 c j h, incBytes_getElem _ _ (by simp; omega), bytesUp_getElem, hback,
    ← byteAt_eq_blockByte c j h]
  exact if_congr (forall_mem_take_bytesUp c j _) rfl rfl

/-- CTRINC (R172). -/
theorem exec_ctrinc (s : State) : exec .ctrinc s = .next (done { s with ctr := inc64 s.ctr }) := rfl

/-- Settles O17: CTRINC is INC64 and the completion. -/
theorem ctrincAddsOne : Obligations.CtrincAddsOne := fun s => ⟨inc64 s.ctr, number_inc64 s.ctr, exec_ctrinc s⟩

/-- Settles O36: INC64 is the carry over the bytes, whose value and whose single bytes are known. -/
theorem counterIncrementCarries : Obligations.CounterIncrementCarries :=
  ⟨exec_ctrinc, fun c => ⟨number_inc64 c, byteAt_inc64 c⟩⟩

/-! ### CTR -/

/-- CTR's result for one chunk, n bytes of DIN under the counter c (R171). -/
def ctrOutput (p : Params) (sb : Vector SboxTable sbTables) (key c din : Block) (n : Nat) : Block :=
  keepFirst n (xorBlock din (encBlock p sb key c))

theorem byteAt_xorBlock (a b : Block) (j : Nat) (h : j < 8) : byteAt (xorBlock a b) j = byteAt a j ^^^ byteAt b j := by
  simp only [byteAt_eq_blockByte _ j h, blockByte_xorBlock]

theorem byteAt_ctrOutput (p : Params) (sb : Vector SboxTable sbTables) (key c din : Block) (n j : Nat) (h : j < 8) :
    byteAt (ctrOutput p sb key c din n) j = if j < n then byteAt din j ^^^ byteAt (encBlock p sb key c) j else 0x00#8 := by
  rw [ctrOutput, byteAt_keepFirst n _ j h, byteAt_xorBlock _ _ j h]

/-- The same keystream twice cancels (R175). -/
theorem byteAt_ctrOutput_twice (p : Params) (sb : Vector SboxTable sbTables) (key c din : Block) (n j : Nat) (hn : n ≤ 8)
    (h : j < n) : byteAt (ctrOutput p sb key c (ctrOutput p sb key c din n) n) j = byteAt din j := by
  have h8 : j < 8 := by omega
  rw [byteAt_ctrOutput _ _ _ _ _ n j h8, byteAt_ctrOutput _ _ _ _ _ n j h8, if_pos h, if_pos h, BitVec.xor_assoc,
    BitVec.xor_self, BitVec.xor_zero]

/-- CTR under a valid slot (R171). -/
theorem execWith_ctr_of_valid (p : Params) (k : Fin slotCodes) (len : Nat) (s : State) (h : valid s k.val) :
    execWith p (.ctr k len) s =
      .next (done { s with dout := ctrOutput p s.sbox (slot s k.val) s.ctr s.din len, ctr := inc64 s.ctr }) := by
  rw [execWith, ctrWith, withKeys_one_of_valid k.val _ s h, slotKey_eq_slot, ctrOutput]

/-- Settles O16: CTR reads one slot, its keystream is ENC of the counter, and the counter is incremented by INC64. -/
theorem ctrXorsTheKeystreamAndCounts : Obligations.CtrXorsTheKeystreamAndCounts := by
  intro s k len _ _ hvalid results
  have runs (p : Params) : ∃ o c, results p o c ∧
      execWith p (.ctr k len) s = .next (done { s with dout := o, ctr := c }) :=
    ⟨_, _, ⟨_, isEnc_encBlock p s.sbox (slot s k.val) s.ctr, byteAt_ctrOutput p s.sbox (slot s k.val) s.ctr s.din len,
      number_inc64 s.ctr⟩, execWith_ctr_of_valid p k len s hvalid⟩
  refine ⟨?_, runs⟩
  rw [exec_eq_execWith, hwParams_eq_hardware]
  exact runs hardware

/-- Settles O35: under this hardware's ZERO the keystream's bytes 0..1 and 4..5 are the counter's, changed over. -/
theorem ctrDiffusionLightKeystream : Obligations.CtrDiffusionLightKeystream := by
  intro s k len _ _ hvalid
  refine ⟨_, (exec_eq_execWith _ s).trans (execWith_ctr_of_valid hwParams k len s hvalid), fun j hj => ?_⟩
  obtain ⟨hkeyLeft, hkeyRight, -, -⟩ :=
    (upperHalfwordsOnlyChangePlaces hwParams s.sbox (slot s k.val) hwParams_rfHigh).2.2 s.ctr j hj
  constructor
  · intro hlen
    rw [← hkeyLeft]
    exact (byteAt_ctrOutput hwParams _ _ _ _ len j (by omega)).trans (if_pos hlen)
  · intro hlen
    rw [← hkeyRight]
    exact (byteAt_ctrOutput hwParams _ _ _ _ len (j + 4) (by omega)).trans (if_pos hlen)

/-! ### Payloads -/

/-- The DOUT blocks of a payload whose first counter is c: chunk m under the counter that m increments give (R174). -/
def payloadOutputs (p : Params) (sb : Vector SboxTable sbTables) (key c : Block) (chunks : List (Block × Nat)) : List Block :=
  chunks.mapIdx fun m chunk => ctrOutput p sb key (inc64^[m] c) chunk.1 chunk.2

@[simp] theorem length_payloadOutputs (p : Params) (sb : Vector SboxTable sbTables) (key c : Block)
    (chunks : List (Block × Nat)) : (payloadOutputs p sb key c chunks).length = chunks.length := List.length_mapIdx

theorem payloadOutputs_cons (p : Params) (sb : Vector SboxTable sbTables) (key c d : Block) (n : Nat)
    (rest : List (Block × Nat)) : payloadOutputs p sb key c ((d, n) :: rest) =
      ctrOutput p sb key c d n :: payloadOutputs p sb key (inc64 c) rest := List.mapIdx_cons

theorem payloadOutputs_getElem? (p : Params) (sb : Vector SboxTable sbTables) (key c d : Block) (chunks : List (Block × Nat))
    (m n : Nat) (h : chunks[m]? = some (d, n)) :
    (payloadOutputs p sb key c chunks)[m]? = some (ctrOutput p sb key (inc64^[m] c) d n) := by
  rw [payloadOutputs, List.getElem?_mapIdx, h, Option.map_some]

/-- The first chunk of a payload, and the others from the state that it leaves (R174). -/
theorem ctrChunks_cons_of_valid (p : Params) (k : Fin 4) (d : Block) (n : Nat) (rest : List (Block × Nat)) (s : State)
    (h : valid s k.val) :
    let o := ctrOutput p s.sbox (slot s k.val) s.ctr d n
    ctrChunks p k ((d, n) :: rest) s =
      (ctrChunks p k rest (done { s with din := d, dout := o, ctr := inc64 s.ctr })).map fun q => (o :: q.1, q.2) := by
  rw [ctrChunks, execWith_ctr_of_valid p k n { s with din := d } h]
  rfl

/-- A payload under a valid slot: all commands complete, CTR is past the last counter, and the keys and tables are kept. -/
theorem ctrChunks_of_valid (p : Params) (k : Fin 4) (chunks : List (Block × Nat)) (s : State) (h : valid s k.val) :
    ∃ u, ctrChunks p k chunks s = some (payloadOutputs p s.sbox (slot s k.val) s.ctr chunks, u) ∧
      u.ctr = inc64^[chunks.length] s.ctr ∧ u.sbox = s.sbox ∧ u.rk = s.rk ∧ u.rkinfo = s.rkinfo := by
  induction chunks generalizing s with
  | nil => exact ⟨s, rfl, rfl, rfl, rfl, rfl⟩
  | cons chunk rest ih =>
    obtain ⟨d, n⟩ := chunk
    obtain ⟨u, hrun, hctr, hkept⟩ :=
      ih (done { s with din := d, dout := ctrOutput p s.sbox (slot s k.val) s.ctr d n, ctr := inc64 s.ctr }) h
    refine ⟨u, ?_, hctr, hkept⟩
    rw [ctrChunks_cons_of_valid p k d n rest s h, hrun, payloadOutputs_cons]
    rfl

/-- Settles O37: chunk m's counter is INC64 applied m times, which adds m. -/
theorem ctrPayloadUsesSuccessiveCounters : Obligations.CtrPayloadUsesSuccessiveCounters := by
  intro p k chunks s hvalid _
  obtain ⟨u, hrun, hctr, -⟩ := ctrChunks_of_valid p k chunks s hvalid
  refine ⟨_, u, hrun, length_payloadOutputs .., by rw [hctr, number_iterate_inc64], fun m d o n hchunk hout => ?_⟩
  rw [payloadOutputs_getElem? _ _ _ _ _ _ m n hchunk, Option.some_inj] at hout
  subst hout
  exact ⟨_, _, number_iterate_inc64 m s.ctr, isEnc_encBlock p s.sbox (slot s k.val) _, byteAt_ctrOutput p _ _ _ d n⟩

/-- Settles O38: the second run meets the same slot, tables and counters, so each chunk meets its keystream twice. -/
theorem ctrPayloadIsSelfInverse : Obligations.CtrPayloadIsSelfInverse := by
  intro p k chunks s hvalid hlens
  obtain ⟨u, hrun, -, hsbox, hrk, hrkinfo⟩ := ctrChunks_of_valid p k chunks s hvalid
  have hvalid' : valid { u with ctr := s.ctr } k.val := by rwa [valid, hrkinfo]
  obtain ⟨v, hback, -⟩ := ctrChunks_of_valid p k
    ((payloadOutputs p s.sbox (slot s k.val) s.ctr chunks).zip (chunks.map Prod.snd)) { u with ctr := s.ctr } hvalid'
  refine ⟨_, u, _, v, hrun, hback, by simp, fun m d b n hchunk hb j hj => ?_⟩
  have hout := payloadOutputs_getElem? p s.sbox (slot s k.val) s.ctr d chunks m n hchunk
  have hlen : (chunks.map Prod.snd)[m]? = some n := by rw [List.getElem?_map, hchunk, Option.map_some]
  rw [payloadOutputs_getElem? _ _ _ _ _ _ m n (List.getElem?_zip_eq_some.mpr ⟨hout, hlen⟩), Option.some_inj] at hb
  subst hb
  simp only [slot, hrk, hsbox]
  exact byteAt_ctrOutput_twice p _ _ _ d n j (hlens _ (List.mem_of_getElem? hchunk)).2 hj

end Sys2Proof.Proofs
end

section
/-! PROOF. The control commands (O9, O21): NOP's completion, and ZEROIZE's cleared registers in the statements' own formulas, with
the number of key registers that the master-key buffer fills. -/

namespace Sys2Proof.Proofs

open Sys2Proof.Machine Sys2Proof.Claims

theorem exec_nop (s : State) : exec .nop s = .next (completeOk s) := rfl

/-- Settles O9: NOP is the completion alone, and that is the statement's (R190, R204). -/
theorem nopOnlyCompletes : Obligations.NopOnlyCompletes := by
  intro s
  rw [exec_nop, completeOk_eq_done]

theorem execWith_zeroize (p : Params) (s : State) : execWith p .zeroize s = .next (completeOk (clearSecrets p s)) := rfl

/-- The registers that ZEROIZE clears, with the statements' empty schedule (R191). -/
theorem clearSecrets_eq_cleared (p : Params) (s : State) : clearSecrets p s =
    { s with
      mkey := List.replicate p.keyRegs 0#32
      mkLen := 0#6
      rk := clearedSlots p.rkSlots
      rkinfo := clearedInfo
      din := ⟨0#32, 0#32⟩
      dout := ⟨0#32, 0#32⟩
      res := 0#32 } := rfl

/-- The key registers hold the buffer, and the last of them holds at least one of its bytes (R31). -/
theorem keyRegs_hold_mkCap (p : Params) : p.mkCap ≤ 4 * p.keyRegs ∧ 4 * p.keyRegs < p.mkCap + 4 := by
  refine ⟨(keyRegs_le_iff p _).mp (Nat.le_refl _), ?_⟩
  unfold Params.keyRegs
  omega

/-- Settles O21: under every parameter ZEROIZE clears `keyRegs` registers and the slots, and this hardware has 8 and 4. -/
theorem zeroizeClearsKeysAndData : Obligations.ZeroizeClearsKeysAndData := by
  intro s zeroized
  have hcleared (p : Params) : execWith p .zeroize s = .next (zeroized p.rkSlots p.keyRegs) := by
    rw [execWith_zeroize, clearSecrets_eq_cleared, completeOk_eq_done]
  have hhardware : exec .zeroize s = .next (zeroized 4 8) := by
    rw [exec_eq_execWith, hcleared, hwParams_rkSlots, hwParams_keyRegs]
  refine ⟨hhardware, fun p => ?_⟩
  obtain ⟨hholds, hfills⟩ := keyRegs_hold_mkCap p
  exact ⟨p.keyRegs, hholds, hfills, hcleared p⟩

end Sys2Proof.Proofs
end

section
/-! PROOF. Errors of commands (O22, O23, O24, O26): the error that a completion raises, as a function of the command, VALID and
MK_LEN alone, and the completion that it gives. -/

namespace Sys2Proof.Proofs

open Sys2Proof.Machine Sys2Proof.Claims

/-! ### A command's error -/

/-- The code of a key that is too short (R111, R113, R114): RK_COUNT for the generic form, KEY_LEN for the schemes. -/
def shortKeyCode : Instr → ErrCode
  | .keygen _ _ => .rkCount
  | _ => .keyLen

/-- The error that a command's completion raises (R200): a slot it reads is invalid, or the key is shorter than it needs. -/
def commandError (i : Instr) (s : State) : Option ErrCode :=
  if (slotsRead i).all (slotValid s) then
    if keyBytesNeeded i ≤ keyLength s then none else some (shortKeyCode i)
  else some .noKey

/-- A command with its slots valid and its key long enough raises nothing. -/
theorem commandError_of_ready (i : Instr) (s : State) (hvalid : ∀ k ∈ slotsRead i, slotValid s k = true)
    (hlong : keyBytesNeeded i ≤ keyLength s) : commandError i s = none := by
  rw [commandError, if_pos (List.all_eq_true.mpr hvalid), if_pos hlong]

theorem commandError_of_short (i : Instr) (s : State) (hvalid : ∀ k ∈ slotsRead i, slotValid s k = true)
    (hshort : keyLength s < keyBytesNeeded i) : commandError i s = some (shortKeyCode i) := by
  rw [commandError, if_pos (List.all_eq_true.mpr hvalid), if_neg (Nat.not_le.mpr hshort)]

theorem commandError_of_missing (i : Instr) (s : State) (k : Nat) (hk : k ∈ slotsRead i) (h : slotValid s k = false) :
    commandError i s = some .noKey := by
  have hall : (slotsRead i).all (slotValid s) = false := List.all_eq_false.mpr ⟨k, hk, by simp [h]⟩
  rw [commandError, hall]
  rfl

/-- A command is ready, or a slot that it reads is missing, or its key is too short. -/
theorem command_cases (i : Instr) (s : State) :
    ((∀ k ∈ slotsRead i, slotValid s k = true) ∧ keyBytesNeeded i ≤ keyLength s) ∨
    (∃ k ∈ slotsRead i, slotValid s k = false) ∨
    ((∀ k ∈ slotsRead i, slotValid s k = true) ∧ keyLength s < keyBytesNeeded i) := by
  by_cases hvalid : ∀ k ∈ slotsRead i, slotValid s k = true
  · exact (Nat.lt_or_ge (keyLength s) (keyBytesNeeded i)).symm.imp (⟨hvalid, ·⟩) fun hshort => .inr ⟨hvalid, hshort⟩
  · push Not at hvalid
    exact .inr (.inl (by simpa using hvalid))

/-- A command other than a KEYGEN form needs no master key (R32). -/
theorem keyBytesNeeded_of_data (i : Instr) (h : isKeygen i = false) : keyBytesNeeded i = 0 := by
  cases i
  case keygen | keygenEde | keygenCtr => cases h
  all_goals rfl

/-- A KEYGEN form reads no slot. -/
theorem slotsRead_of_keygen (i : Instr) (h : isKeygen i = true) : slotsRead i = [] := by
  cases i
  case keygen | keygenEde | keygenCtr => rfl
  all_goals cases h

/-- A command that reads a slot is no KEYGEN form. -/
theorem isKeygen_of_reads (i : Instr) (k : Nat) (hk : k ∈ slotsRead i) : isKeygen i = false := by
  by_contra hkeygen
  rw [slotsRead_of_keygen i (Bool.eq_true_of_not_eq_false hkeygen)] at hk
  exact List.not_mem_nil hk

/-- A command whose key is too short is a KEYGEN form. -/
theorem isKeygen_of_short (i : Instr) (s : State) (h : keyLength s < keyBytesNeeded i) : isKeygen i = true := by
  by_contra hdata
  rw [keyBytesNeeded_of_data i (Bool.eq_false_of_not_eq_true hdata)] at h
  exact Nat.not_lt_zero _ h

/-! ### A command's completion -/

/-- The state after a command's completion (R204): its results, or its error, with the schedule cleared for a KEYGEN form (R112,
R201). -/
def completion (p : Params) (i : Instr) (s : State) : State :=
  match commandError i s with
  | none => completeOk (commandResults p i s)
  | some c => raiseCmdError c (if isKeygen i then kfail p s else s)

theorem completion_of_none (p : Params) (i : Instr) (s : State) (h : commandError i s = none) :
    completion p i s = completeOk (commandResults p i s) := by
  simp [completion, h]

theorem completion_of_some (p : Params) (i : Instr) (s : State) (c : ErrCode) (h : commandError i s = some c) :
    completion p i s = raiseCmdError c (if isKeygen i then kfail p s else s) := by
  simp [completion, h]

/-- A ready command writes its results. -/
theorem execWith_of_ready (p : Params) (i : Instr) (s : State) (hvalid : ∀ k ∈ slotsRead i, slotValid s k = true)
    (hlong : keyBytesNeeded i ≤ keyLength s) : execWith p i s = .next (completeOk (commandResults p i s)) := by
  cases i
  case nop | sbox | ctrinc | zeroize => rfl
  case roundf | fenc | fdec | ede | ctr => exact congrArg _ (withKeys_of_valid _ _ s hvalid)
  case keygen => exact congrArg _ (runKeygen_of_long p _ _ _ _ s hlong (Nat.le_refl _))
  case keygenEde | keygenCtr => exact congrArg _ (runKeygen_of_long p _ _ _ _ s hlong (by decide))

/-- A KEYGEN form on too short a key fails with its code (R111 to R114). -/
theorem execWith_of_short (p : Params) (i : Instr) (s : State) (hshort : keyLength s < keyBytesNeeded i) :
    execWith p i s = .next (keygenFail p (shortKeyCode i) s) := by
  cases i
  case keygen | keygenEde | keygenCtr => exact congrArg _ (runKeygen_of_short p _ _ _ _ s hshort)
  all_goals exact absurd hshort (Nat.not_lt_zero _)

/-- Every command completes, with its results or its error, under every value of the parameters. -/
theorem execWith_eq_completion (p : Params) (i : Instr) (s : State) : execWith p i s = .next (completion p i s) := by
  rcases command_cases i s with ⟨hvalid, hlong⟩ | ⟨k, hk, hmissing⟩ | ⟨hvalid, hshort⟩
  · rw [execWith_of_ready p i s hvalid hlong, completion_of_none p i s (commandError_of_ready i s hvalid hlong)]
  · rw [execWith_of_missing p i s k hk hmissing,
      completion_of_some p i s _ (commandError_of_missing i s k hk hmissing), isKeygen_of_reads i k hk]
    rfl
  · rw [execWith_of_short p i s hshort, completion_of_some p i s _ (commandError_of_short i s hvalid hshort),
      isKeygen_of_short i s hshort]
    rfl

/-- Every command completes on this hardware. -/
theorem exec_eq_completion (i : Instr) (s : State) : exec i s = .next (completion hwParams i s) := by
  rw [exec_eq_execWith, execWith_eq_completion]

@[simp] theorem completion_pending (p : Params) (i : Instr) (s : State) : (completion p i s).pending = none := by
  unfold completion; split <;> rfl

@[simp] theorem completion_ie (p : Params) (i : Instr) (s : State) : (completion p i s).ie = s.ie := by
  unfold completion
  split
  · exact commandResults_ie p i s
  · split <;> rfl

/-- STATUS after a completion is a function of STATUS before it and of the command's error (R201, R204). -/
theorem completion_status (p : Params) (i : Instr) (s : State) :
    (completion p i s).status = (commandError i s).elim (statusCompleted s.status) statusRaised := by
  unfold completion
  split
  · next h => simp [h]
  · next c h => simp [h]

@[simp] theorem completion_busy (p : Params) (i : Instr) (s : State) : (completion p i s).status.busy = false := by
  rw [completion_status]; cases commandError i s <;> rfl

@[simp] theorem completion_done (p : Params) (i : Instr) (s : State) : (completion p i s).status.done = true := by
  rw [completion_status]; cases commandError i s <;> rfl

/-! ### The errors of R200 -/

/-- Settles O22: a missing slot is the command's error, whatever it would have computed. -/
theorem missingKeyRaisesNoKey : Obligations.MissingKeyRaisesNoKey := by
  rintro i s ⟨k, hk, hinvalid⟩
  have raises (p : Params) : execWith p i s = .next (failed .noKey s) :=
    execWith_of_missing p i s k hk (Bool.eq_false_of_not_eq_true hinvalid)
  exact ⟨exec_eq_execWith i s ▸ raises hwParams, raises⟩

/-- A command's error depends on VALID and MK_LEN alone, and on no data (R202). -/
theorem commandError_congr (i : Instr) (s s' : State) (hlen : s'.mkLen = s.mkLen) (hinfo : s'.rkinfo = s.rkinfo) :
    commandError i s' = commandError i s := by
  have hvalid : slotValid s' = slotValid s := by unfold slotValid; rw [hinfo]
  have hlength : keyLength s' = keyLength s := congrArg BitVec.toNat hlen
  rw [commandError, commandError, hvalid, hlength]

/-- Settles O23: a data command can only miss a slot, and the error that sets STATUS reads no data. -/
theorem dataCommandsWithKeysSucceed : Obligations.DataCommandsWithKeysSucceed := by
  refine ⟨fun i s _ hdata hvalid => ?succeeds, fun i s s' _ hstatus hlen hinfo => ?reads⟩
  case succeeds =>
    have hlong : keyBytesNeeded i ≤ keyLength s := keyBytesNeeded_of_data i hdata ▸ Nat.zero_le _
    refine ⟨_, exec_eq_completion i s, ?_, completion_pending hwParams i s⟩
    rw [completion_status, commandError_of_ready i s hvalid hlong]
    rfl
  case reads =>
    refine ⟨_, _, exec_eq_completion i s, exec_eq_completion i s', ?_⟩
    rw [completion_status, completion_status, hstatus, commandError_congr i s s' hlen hinfo]

/-- Settles O24: the three cases of a command are success, NO_KEY with nothing else, and a KEYGEN's failure. -/
theorem commandErrorsArePrecise : Obligations.CommandErrorsArePrecise := by
  intro i s t h
  have ht : completion hwParams i s = t := Host.Outcome.next.inj (exec_eq_completion i s ▸ h)
  refine ⟨ht ▸ completion_pending hwParams i s, ht ▸ completion_busy hwParams i s, ht ▸ completion_done hwParams i s,
    ?_⟩
  rw [exec_eq_execWith] at h
  rcases command_cases i s with ⟨hvalid, hlong⟩ | ⟨k, hk, hmissing⟩ | ⟨-, hshort⟩
  · rw [← ht, completion_status, commandError_of_ready i s hvalid hlong]
    exact .inl ⟨rfl, rfl⟩
  · rw [execWith_of_missing hwParams i s k hk hmissing, Host.Outcome.next.injEq] at h
    exact .inr (.inl h.symm)
  · rw [execWith_of_short hwParams i s hshort, keygenFail_eq_failed, Host.Outcome.next.injEq] at h
    exact .inr (.inr ⟨shortKeyCode i, by cases i <;> simp [shortKeyCode], h.symm⟩)

/-! ### ERR blocks nothing -/

/-- The results of a command read no flag. -/
theorem commandResults_setStatus (p : Params) (i : Instr) (s : State) (st : Status) :
    commandResults p i { s with status := st } = { commandResults p i s with status := st } := by
  cases i <;> rfl

/-- A completion reads STATUS only to keep ERR and ERRCODE (R204, R209). -/
theorem completion_setStatus (p : Params) (i : Instr) (s : State) (st : Status) :
    completion p i { s with status := st } =
      { completion p i s with status := (commandError i s).elim (statusCompleted st) statusRaised } := by
  have herror : commandError i { s with status := st } = commandError i s := commandError_congr i s _ rfl rfl
  cases h : commandError i s with
  | none =>
    rw [completion_of_none p i s h, completion_of_none p i _ (herror.trans h), commandResults_setStatus]
    rfl
  | some c =>
    rw [completion_of_some p i s c h, completion_of_some p i _ c (herror.trans h)]
    cases isKeygen i <;> rfl

/-- Settles O26: the completion and the issue read neither ERR nor ERRCODE, but keep them. -/
theorem errorsBlockNothing : Obligations.ErrorsBlockNothing := by
  refine fun s e c => ⟨fun i t h => ?completes, fun hidle p w => ?issues⟩
  case completes =>
    rw [exec_eq_completion, Host.Outcome.next.injEq] at h
    subst h
    refine ⟨_, exec_eq_completion i _, ?_, ?_, ?_⟩
    · rw [completion_setStatus]
    · rw [completion_busy, completion_busy]
    · rw [completion_done, completion_done]
  case issues => exact hostWrite_of_idle p .cmd w _ hidle

end Sys2Proof.Proofs
end

section
/-! PROOF. The step: the core's move and its completion (O6, O8), a write while BUSY = 1 (O43), the interrupt (O52) and the reset
edge (O55). -/

namespace Sys2Proof.Proofs

open Sys2Proof.Machine Sys2Proof.Claims

/-! ### The core's move -/

/-- Settles O6: on both turns the step is the core's, which runs the decoded word. -/
theorem stepRunsTheDecodedCommand : Obligations.StepRunsTheDecodedCommand := by
  intro s w i hpending hdecode
  refine ⟨fun hturn => ⟨?_, fun p => ?_⟩, fun rest hturn => ⟨?_, fun p => ?_⟩⟩
  · rw [step_idle s hturn, coreStep_command exec s w i hpending hdecode]
  · rw [stepWith_idle p s hturn, coreStep_command (execWith p) s w i hpending hdecode]
  · rw [step_complete s rest hturn, coreStep_command exec { s with turns := rest } w i hpending hdecode]
  · rw [stepWith_complete p s rest hturn, coreStep_command (execWith p) { s with turns := rest } w i hpending hdecode]

/-- The core's move completes a pending command, Illegal or not: the latch is empty, BUSY is 0 and DONE is 1, and CTRL is kept
(R87, R204). -/
theorem coreStep_completes (p : Params) (s : State) (h : s.pending.isSome = true) :
    ∃ t, coreStep (execWith p) s = .next t ∧ t.pending = none ∧ t.status.busy = false ∧ t.status.done = true ∧
      t.ie = s.ie := by
  obtain ⟨w, hw⟩ := Option.isSome_iff_exists.mp h
  cases hdecode : decode w with
  | none => exact ⟨_, coreStep_illegal (execWith p) s w hw hdecode, rfl, rfl, rfl, rfl⟩
  | some i =>
    rw [coreStep_command (execWith p) s w i hw hdecode, execWith_eq_completion]
    exact ⟨_, rfl, completion_pending p i s, completion_busy p i s, completion_done p i s, completion_ie p i s⟩

/-- The core's move answers a next state: it waits or completes (R206, R231). -/
theorem coreStep_next (p : Params) (s : State) : ∃ t, coreStep (execWith p) s = .next t := by
  cases h : s.pending with
  | none => exact ⟨s, coreStep_idle (execWith p) s h⟩
  | some w =>
    obtain ⟨t, ht, -⟩ := coreStep_completes p s (by simp [h])
    exact ⟨t, ht⟩

/-- So does every other move of a step (R62, R230). -/
theorem stepWith_next (p : Params) (s : State) : ∃ t, stepWith p s = .next t := by
  rcases stepWith_cases p s _ rfl with ⟨-, h⟩ | ⟨rest, -, h⟩ | ⟨a, rest, -, h⟩ | ⟨a, rest, -, h⟩ <;> rw [h]
  · exact coreStep_next p s
  · exact coreStep_next p { s with turns := rest }
  · exact ⟨_, rfl⟩
  · exact ⟨_, rfl⟩

/-- The step completes a pending command when the core moves next (R204). -/
theorem stepWith_completes (p : Params) (s : State) (h : s.pending.isSome = true)
    (hcore : s.turns = [] ∨ ∃ rest, s.turns = Turn.complete :: rest) :
    ∃ t, stepWith p s = .next t ∧ t.pending = none ∧ t.status.busy = false ∧ t.status.done = true ∧ t.ie = s.ie := by
  rcases hcore with hturn | ⟨rest, hturn⟩
  · rw [stepWith_idle p s hturn]
    exact coreStep_completes p s h
  · rw [stepWith_complete p s rest hturn]
    exact coreStep_completes p { s with turns := rest } h

/-- Settles O8: the core's move completes what is pending and waits otherwise, under every value of the parameters. -/
theorem everyPendingCommandCompletes : Obligations.EveryPendingCommandCompletes := by
  unfold Obligations.EveryPendingCommandCompletes
  intro completesOrWaits
  have hall (p : Params) : completesOrWaits (stepWith p) := by
    refine ⟨stepWith_next p, fun s hpending hcore => ?completes, fun s hnone =>
      ⟨fun hturn => ?waits, fun rest hturn => ?usesUp⟩⟩
    case completes =>
      obtain ⟨t, ht, hlatch, hbusy, hdone, -⟩ := stepWith_completes p s hpending hcore
      exact ⟨t, ht, hlatch, hbusy, hdone⟩
    case waits => rw [stepWith_idle p s hturn, coreStep_idle _ s hnone]
    case usesUp => rw [stepWith_complete p s rest hturn, coreStep_idle _ { s with turns := rest } hnone]
  exact ⟨(funext step_eq_stepWith : step = stepWith hwParams) ▸ hall hwParams, hall⟩

/-! ### A write while BUSY = 1 -/

/-- With BUSY = 1 a write to a register other than STATUS sets ERR and BUSY_WRITE, and changes nothing else (R205). -/
theorem hostWrite_dropped (p : Params) (r : Reg) (v : Word) (s : State) (hbusy : s.status.busy = true) (hr : r ≠ .status) :
    hostWrite p r v s =
      { s with status := { busy := true, done := s.status.done, err := true, errcode := .busyWrite } } := by
  rcases hostWrite_cases p r v s with ⟨-, -, h⟩ | ⟨hstatus, -⟩ | ⟨hidle, -, -⟩
  · rw [h, dropWrite, statusBusyWrite, hbusy]
  · exact absurd hstatus hr
  · simp [hbusy] at hidle

/-- The step of a dropped write. -/
theorem step_of_dropped (s : State) (a : BusAccess) (rest : List Turn) (r : Reg) (v : Word)
    (hturn : s.turns = Turn.access a :: rest) (hbusy : s.status.busy = true) (h : writes a r v) (hr : r ≠ .status) :
    step s = .next
      { s with
        turns := rest
        lastResp := wrote
        status := { busy := true, done := s.status.done, err := true, errcode := .busyWrite } } := by
  rw [step_of_writes s a rest r v hturn h, hostWrite_dropped hwParams r v { s with turns := rest } hbusy hr]

/-- Settles O43: a write is dropped or is STATUS's W1C, and the other accesses do not look at BUSY. -/
theorem writeWhileBusyIsDropped : Obligations.WriteWhileBusyIsDropped := by
  intro s a rest hturn hbusy
  refine ⟨fun r v hw hr => ?dropped, fun v hw => ?status, fun hbad => ?bad, fun r hr => step_of_reads s a rest r hturn hr⟩
  case dropped => exact ⟨_, step_of_dropped s a rest r v hturn hbusy hw hr, rfl⟩
  case status =>
    refine ⟨_, statusWriteClearsWhatItSelects s a rest v hturn hw, ?_⟩
    rw [hbusy]
    cases v.getLsbD 1 <;> cases v.getLsbD 2 <;> simp
  case bad =>
    obtain ⟨d, -, hstep⟩ := badAccessGetsOnlyBusErr.1 s a rest hturn hbad
    exact ⟨_, hstep, rfl, rfl⟩

/-! ### The interrupt -/

/-- Settles O52: a completion keeps IE and sets DONE, and the accesses move one of the two, or neither. -/
theorem interruptFollowsDone : Obligations.InterruptFollowsDone := by
  refine fun s => ⟨?level, fun hpending hcore => ?completion, fun a rest hturn =>
    ⟨fun v hw hbit => ?clear, fun v hw hidle => ?control, fun w hw hidle => ?issue, fun r v hw hr hbusy => ?dropped⟩⟩
  case level => rw [irq, Bool.and_eq_true]
  case completion =>
    obtain ⟨t, ht, -, -, hdone, hie⟩ := stepWith_completes hwParams s hpending hcore
    exact ⟨t, step_eq_stepWith s ▸ ht, by rw [irq, hdone, hie, Bool.and_true]⟩
  case clear =>
    refine ⟨_, statusWriteClearsWhatItSelects s a rest v hturn hw, ?_⟩
    simp [irq, hbit]
  case control =>
    refine ⟨_, step_of_writes s a rest .ctrl v hturn hw, ?_⟩
    rw [hostWrite_of_idle hwParams .ctrl v { s with turns := rest } hidle]
    rfl
  case issue => exact ⟨_, cmdWriteIssues s a rest w hturn hidle hw, Bool.and_false s.ie⟩
  case dropped => exact ⟨_, step_of_dropped s a rest r v hturn hbusy hw hr, rfl⟩

/-! ### The reset edge -/

/-- Settles O55: with an access or without, the edge puts the reset state in place and keeps only the model's own fields. -/
theorem resetEdgeRestoresReset : Obligations.ResetEdgeRestoresReset := by
  intro s a rest hturn
  refine ⟨_, step_reset s a rest hturn, ?_⟩
  cases a with
  | none => exact ⟨rfl, rfl, fun acc h => (nomatch h), fun _ => rfl⟩
  | some acc =>
    refine ⟨rfl, rfl, fun acc' h hread => ?_, fun h => (nomatch h)⟩
    cases h
    simp [resetEdge, hread]

end Sys2Proof.Proofs
end
